-- ==== Sys2Proof/Word.lean ====
section
/-! DEFINITION. The word types of the sequencer (spec/00_scope.md R9: every value is unsigned). -/

namespace Sys2Proof

/-- A register-bank word: every access is 32 bits wide (spec/20_memory.md R58). -/
abbrev Word := BitVec 32

/-- A byte of the request buffers and of the logical stream (spec/00_scope.md R11). -/
abbrev Byte := BitVec 8

end Sys2Proof
end

