-- ==== Sys2Proof/Config.lean ====
section
/-! DEFINITION. The parameters of an instance of the block (spec/00_scope.md R7, R8), the names its environment
speaks in, and the free values the spec leaves to the environment or to the implementation. -/

namespace Sys2Proof

/-- The registers of the bank, by name: the operand of an access is a register name, not an address
(spec/20_memory.md R55, spec/10_state.md R34). -/
inductive Reg where
  | con
  | ien
  | ipd
  | clkdiv
  | mtxcnt
  | txdata (i : Nat)
deriving DecidableEq, Repr, Inhabited

/-- The four status sources (spec/60_exceptions.md R204). -/
inductive Flag where
  | start
  | stop
  | mbtf
  | nakrcv
deriving DecidableEq, Repr, Inhabited

/-- The pending flags of `IPD` (spec/10_state.md R37): STARTIPD, STOPIPD, MBTFIPD, NAKRCVIPD. -/
structure Flags where
  start : Bool
  stop : Bool
  mbtf : Bool
  nakrcv : Bool
deriving DecidableEq, Repr, Inhabited

/-- What the host may do between two micro-steps (spec/70_reset_and_hazards.md R230, R240). -/
inductive HostMove where
  /-- nothing that the block can see (a read of the bank between commands is one of these) -/
  | quiet
  /-- the host presents one command descriptor at the command port (R70) -/
  | present (ws : List Word)
  /-- the host writes a register of the bank, which it may do between commands (R240) -/
  | poke (reg : Reg) (v : Word)
  /-- the host asserts the reset input (R230) -/
  | reset
deriving DecidableEq, Repr, Inhabited

/-- The environment's move between two micro-steps: the flags `Ctl` sets (spec/10_state.md R40), the bits it drives
on the next `IPD` read beside the four flags (spec/20_memory.md R52), and the host's move. -/
structure EnvMove where
  set : Flags
  other : Word
  host : HostMove
deriving DecidableEq, Repr, Inhabited

/-- Bit positions of the register fields (spec/30_encoding.md R78 to R82), named parameters with the spec's
defaults (spec/93_implementation_defined.md G7). The flags of `IPD` stand at the positions of their enables (R80). -/
structure Layout where
  conEn : Nat := 0
  conMode : Nat := 1
  conStart : Nat := 3
  conStop : Nat := 4
  modeTx : BitVec 2 := 0#2
  mbtf : Nat := 2
  start : Nat := 4
  stop : Nat := 5
  nakrcv : Nat := 6
  ipdAll : Word := 0x7F#32
  divl : Nat := 0
  divh : Nat := 16
deriving DecidableEq, Repr, Inhabited

/-- Base and offsets of the register bank (spec/20_memory.md R56); no rule reads them. -/
structure Offsets where
  base : Nat := 0
  con : Nat := 0x000
  clkdiv : Nat := 0x004
  mtxcnt : Nat := 0x010
  ien : Nat := 0x018
  ipd : Nat := 0x01C
  txdata0 : Nat := 0x100
deriving DecidableEq, Repr, Inhabited

/-- Which divisor function the instance has (spec/40_clock.md R104): the spec's default, or one of the
functions about which nothing is known but what `Config.wf` demands. -/
inductive ClkDivChoice where
  | standard
  | other (k : Nat)
deriving DecidableEq, Repr, Inhabited

/-- The parameters of an instance (spec/00_scope.md R7, R8). The field defaults are the spec's suggestions;
`refClkHz` has none there and takes the worked example's value (spec/40_clock.md R100). Log entry 1. R7 bounds `TARGET_SCL_HZ` by nothing but that it is
positive: its 32 bits are the model's DESIGN CHOICE, log entry 17. -/
structure Config where
  fifoDepthBytes : Nat := 32
  timeoutBudget : Word := 100000#32
  refClkHz : Nat := 24000000
  targetSclHz : Word := 100000#32
  clkDiv : ClkDivChoice := .standard
  layout : Layout := {}
  offsets : Offsets := {}
deriving DecidableEq, Repr, Inhabited

namespace Config

/-- The instance that `State.reset` has: the spec's suggested defaults. DESIGN CHOICE, log entry 1. -/
def standard : Config := {}

/-- The value of the clock-selection store: uninterpreted, it depends on `HZ` and the parameters alone
(spec/40_clock.md R102). A free value without a body, log entry 11. Its width is not in the source
(spec/20_memory.md R67): 32 bits are the model's DESIGN CHOICE, log entry 15. -/
opaque clkSelValue (c : Config) (hz : Word) : Word

/-- What the clock-selection register holds after these stores, none of them at launch or reset: unspecified
(spec/10_state.md R45), and not known to be the last value stored (spec/20_memory.md R67). A free value without a body,
log entry 4; 32 bits as for `clkSelValue`, DESIGN CHOICE, log entry 15. -/
opaque clkSelHeld (stores : List Word) : Word

/-- A divisor function other than the default, `(divl, divh)` from the reference clock and the target
(spec/40_clock.md R104). A free value without a body. -/
opaque clkDivOther (k ref hz : Nat) : Nat × Nat

/-- The environment's move at a turn that no script settles (spec/10_state.md R40,
spec/93_implementation_defined.md U3, U4): unconstrained. A free value without a body, log entry 3. -/
opaque freeEnv (turn : Nat) : EnvMove

/-- The bank at launch: any value, chosen by the environment (spec/10_state.md R45,
spec/93_implementation_defined.md U1, U2). Free values without a body, log entry 2. -/
opaque launchCon : Word
opaque launchIen : Word
opaque launchClkdiv : Word
opaque launchMtxcnt : Word
opaque launchTxdata (i : Nat) : Word
opaque launchIpd : Flags
opaque launchIpdOther : Word

end Config

end Sys2Proof
end

