-- ==== Sys2Proof/Syntax.lean ====
section
/-! DEFINITION. The instruction set, three levels (spec/30_encoding.md R89), one constructor of `Instr` for each row
of spec/opcode_table.json, and the raw forms a decoder reads. -/

namespace Sys2Proof

/-- The 29 micro-states (spec/10_state.md R25), in the order of their codes (spec/30_encoding.md R86). -/
inductive MicroState where
  | idle
  | ckSel
  | ckDiv
  | txnInit
  | stClr
  | stCon
  | stIen
  | stChk
  | stAck
  | stDly
  | txFifo
  | txCon
  | txCnt
  | txIen
  | txChk
  | txNak
  | txAck
  | txDly
  | spClr
  | spCon
  | spIen
  | spChk
  | spAck
  | spDly
  | dis
  | ret
  | scNext
  | scDly
  | done
deriving DecidableEq, Repr, Inhabited

/-- A command as a value (spec/30_encoding.md R71), the reserved `OP = 3` with the header's other 30 bits. -/
inductive Command where
  | cfgclk (hz : Word)
  | wrtxn (a : BitVec 7) (r d : List Byte)
  | scan
  | reservedOp3 (rest : BitVec 30)
deriving DecidableEq, Repr, Inhabited

/-- The instructions: commands (`cfgclk` to `reservedOp3`), operations (`sendStart` to `disable`) and
micro-operations (`idle` to `done`). -/
inductive Instr where
  /-- CFGCLK hz (spec/40_clock.md R100) -/
  | cfgclk (hz : Word)
  /-- WRTXN a, R, D (spec/44_transaction.md R160) -/
  | wrtxn (a : BitVec 7) (r d : List Byte)
  /-- SCAN (spec/45_scan.md R190) -/
  | scan
  /-- the reserved `OP = 3` (spec/30_encoding.md R92), with the header's other 30 bits -/
  | reservedOp3 (rest : BitVec 30)
  /-- sendStart (spec/42_startstop.md R125) -/
  | sendStart
  /-- poll of STARTIPD (spec/41_poll.md R111) -/
  | pollStart
  /-- FIFO load and trigger of one chunk (spec/43_packer.md R147, spec/44_transaction.md R166) -/
  | txChunk
  /-- the two-flag poll (spec/41_poll.md R116) -/
  | txWait
  /-- sendStop (spec/42_startstop.md R129) -/
  | sendStop
  /-- poll of STOPIPD (spec/41_poll.md R111) -/
  | pollStop
  /-- disable (spec/42_startstop.md R132) -/
  | disable
  /-- IDLE (R70, R175) -/
  | idle
  /-- CK_SEL (R100, R175) -/
  | ckSel
  /-- CK_DIV (R100, R175) -/
  | ckDiv
  /-- TXN_INIT (R162, R175) -/
  | txnInit
  /-- ST_CLR (R125, R175) -/
  | stClr
  /-- ST_CON (R125, R175) -/
  | stCon
  /-- ST_IEN (R125, R175) -/
  | stIen
  /-- ST_CHK (R111, R175) -/
  | stChk
  /-- ST_ACK (R111, R175) -/
  | stAck
  /-- ST_DLY (R111, R175) -/
  | stDly
  /-- TX_FIFO (R147, R175) -/
  | txFifo
  /-- TX_CON (R166, R175) -/
  | txCon
  /-- TX_CNT (R166, R175) -/
  | txCnt
  /-- TX_IEN (R166, R175) -/
  | txIen
  /-- TX_CHK (R116, R175) -/
  | txChk
  /-- TX_NAK (R116, R175) -/
  | txNak
  /-- TX_ACK (R116, R175) -/
  | txAck
  /-- TX_DLY (R116, R175) -/
  | txDly
  /-- SP_CLR (R129, R175) -/
  | spClr
  /-- SP_CON (R129, R175) -/
  | spCon
  /-- SP_IEN (R129, R175) -/
  | spIen
  /-- SP_CHK (R111, R175) -/
  | spChk
  /-- SP_ACK (R111, R175) -/
  | spAck
  /-- SP_DLY (R111, R175) -/
  | spDly
  /-- DIS (R132, R175) -/
  | dis
  /-- RET (R172, R175) -/
  | ret
  /-- SC_NEXT (R191, R175) -/
  | scNext
  /-- SC_DLY (R194, R175) -/
  | scDly
  /-- DONE (R173, R175) -/
  | done
deriving DecidableEq, Repr, Inhabited

namespace Instr

/-- The instruction of a command (spec/30_encoding.md R89 level 1). -/
def ofCommand : Command → Instr
  | .cfgclk hz => .cfgclk hz
  | .wrtxn a r d => .wrtxn a r d
  | .scan => .scan
  | .reservedOp3 rest => .reservedOp3 rest

/-- The micro-operation of a micro-state (spec/30_encoding.md R89 level 3). -/
def ofMicro : MicroState → Instr
  | .idle => .idle
  | .ckSel => .ckSel
  | .ckDiv => .ckDiv
  | .txnInit => .txnInit
  | .stClr => .stClr
  | .stCon => .stCon
  | .stIen => .stIen
  | .stChk => .stChk
  | .stAck => .stAck
  | .stDly => .stDly
  | .txFifo => .txFifo
  | .txCon => .txCon
  | .txCnt => .txCnt
  | .txIen => .txIen
  | .txChk => .txChk
  | .txNak => .txNak
  | .txAck => .txAck
  | .txDly => .txDly
  | .spClr => .spClr
  | .spCon => .spCon
  | .spIen => .spIen
  | .spChk => .spChk
  | .spAck => .spAck
  | .spDly => .spDly
  | .dis => .dis
  | .ret => .ret
  | .scNext => .scNext
  | .scDly => .scDly
  | .done => .done

end Instr

/-- What a decoder is given: the words of a descriptor at the command port (level 1), the code of an operation's first
micro-state (level 2), or the code `upc` holds (level 3) (spec/30_encoding.md R89). -/
inductive Encoding where
  | descriptor (ws : List Word)
  | entry (code : BitVec 5)
  | micro (code : BitVec 5)
deriving DecidableEq, Repr, Inhabited

/-- Why a decoder refuses, by name. -/
inductive DecodeError where
  /-- a descriptor shorter than spec/30_encoding.md R77 requires (R93) -/
  | tooShort
  /-- a 1 in `H[31:9]` (R93) -/
  | reservedBits
  /-- `DEVADDR != 0` with `OP` 0 or 2 (R93) -/
  | strayAddress
  /-- `1 + P + L >= 2^32` (R93) -/
  | tooLong
  /-- `upc` code 29 to 31 (R94) -/
  | unusedMicroCode (code : BitVec 5)
  /-- a code that is no operation's first micro-state (R89) -/
  | noSuchEntry (code : BitVec 5)
deriving DecidableEq, Repr, Inhabited

end Sys2Proof
end

