-- ==== Sys2Proof/WellFormed.lean ====
section
/-! DEFINITION. Well-formed instructions: the operand checks of the command port (spec/30_encoding.md R93) that need
no parameter of the instance. -/

namespace Sys2Proof

/-- CFGCLK with `HZ = 0` is refused at the port (spec/40_clock.md R106). The other half of that rule, `HZ` equal to the
instance's `TARGET_SCL_HZ`, is checked on acceptance. -/
def hzWellFormed (hz : Word) : Bool := hz != 0#32

/-- `1 + P + L < 2^32` (spec/10_state.md R21). -/
def lengthsWellFormed (r d : List Byte) : Bool := decide (1 + r.length + d.length < 2 ^ 32)

/-- An instruction the spec gives an effect on some state. `reservedOp3` is well-formed as an encoding only
(spec/30_encoding.md R92): its word decodes to it, and its meaning is the refusal. -/
def Instr.wellFormed : Instr → Bool
  | .cfgclk hz => hzWellFormed hz
  | .wrtxn _ r d => lengthsWellFormed r d
  | .scan | .reservedOp3 _ => true
  | .sendStart | .pollStart | .txChunk | .txWait | .sendStop | .pollStop | .disable => true
  | .idle | .ckSel | .ckDiv | .txnInit | .stClr | .stCon | .stIen | .stChk | .stAck | .stDly | .txFifo | .txCon | .txCnt | .txIen | .txChk
  | .txNak | .txAck | .txDly | .spClr | .spCon | .spIen | .spChk | .spAck | .spDly | .dis | .ret | .scNext | .scDly | .done => true

end Sys2Proof
end

