-- ==== Sys2Proof/Decode.lean ====
section
/-! DEFINITION. The decoder of the three levels (spec/30_encoding.md R72 to R77, R86, R89), the encoder, and the code
tables. Total on any words; a refusal names its reason. -/

namespace Sys2Proof

/-- The code of a micro-state (spec/30_encoding.md R86). -/
def MicroState.code : MicroState → BitVec 5
  | .idle => 0#5
  | .ckSel => 1#5
  | .ckDiv => 2#5
  | .txnInit => 3#5
  | .stClr => 4#5
  | .stCon => 5#5
  | .stIen => 6#5
  | .stChk => 7#5
  | .stAck => 8#5
  | .stDly => 9#5
  | .txFifo => 10#5
  | .txCon => 11#5
  | .txCnt => 12#5
  | .txIen => 13#5
  | .txChk => 14#5
  | .txNak => 15#5
  | .txAck => 16#5
  | .txDly => 17#5
  | .spClr => 18#5
  | .spCon => 19#5
  | .spIen => 20#5
  | .spChk => 21#5
  | .spAck => 22#5
  | .spDly => 23#5
  | .dis => 24#5
  | .ret => 25#5
  | .scNext => 26#5
  | .scDly => 27#5
  | .done => 28#5

/-- The micro-state a code stands for; codes 29 to 31 are unused (spec/30_encoding.md R86, R94). -/
def MicroState.ofCode (c : BitVec 5) : Option MicroState :=
  match c.toNat with
  | 0 => some .idle
  | 1 => some .ckSel
  | 2 => some .ckDiv
  | 3 => some .txnInit
  | 4 => some .stClr
  | 5 => some .stCon
  | 6 => some .stIen
  | 7 => some .stChk
  | 8 => some .stAck
  | 9 => some .stDly
  | 10 => some .txFifo
  | 11 => some .txCon
  | 12 => some .txCnt
  | 13 => some .txIen
  | 14 => some .txChk
  | 15 => some .txNak
  | 16 => some .txAck
  | 17 => some .txDly
  | 18 => some .spClr
  | 19 => some .spCon
  | 20 => some .spIen
  | 21 => some .spChk
  | 22 => some .spAck
  | 23 => some .spDly
  | 24 => some .dis
  | 25 => some .ret
  | 26 => some .scNext
  | 27 => some .scDly
  | 28 => some .done
  | _ => none

/-- The operation that is entered at a code (spec/30_encoding.md R89). -/
def decodeEntry (c : BitVec 5) : Except DecodeError Instr :=
  match c.toNat with
  | 4 => .ok .sendStart
  | 7 => .ok .pollStart
  | 10 => .ok .txChunk
  | 14 => .ok .txWait
  | 18 => .ok .sendStop
  | 21 => .ok .pollStop
  | 24 => .ok .disable
  | _ => .error (.noSuchEntry c)

/-- The micro-operation of a code of `upc` (spec/30_encoding.md R86, R94). -/
def decodeMicro (c : BitVec 5) : Except DecodeError Instr :=
  match MicroState.ofCode c with
  | some m => .ok (Instr.ofMicro m)
  | none => .error (.unusedMicroCode c)

/-- `ceil(n / 4)`, the words that carry `n` bytes (spec/30_encoding.md R74). -/
def wordsFor (n : Nat) : Nat := (n + 3) / 4

/-- `{B3, B2, B1, B0}`: byte `j` at bits `[8j+7 : 8j]` (spec/30_encoding.md R84). -/
def wordOfBytes (b0 b1 b2 b3 : Byte) : Word := b3 ++ b2 ++ b1 ++ b0

/-- The four byte lanes of a word, lane 0 first (spec/30_encoding.md R74). -/
def bytesOfWord (w : Word) : List Byte :=
  [w.extractLsb' 0 8, w.extractLsb' 8 8, w.extractLsb' 16 8, w.extractLsb' 24 8]

/-- The byte lanes of the words of a buffer, in order. -/
def bytesOfWords : List Word → List Byte
  | [] => []
  | w :: ws => bytesOfWord w ++ bytesOfWords ws

/-- The words that carry a byte sequence, four to a word, lanes past its end 0 (spec/30_encoding.md R74). -/
def wordsOfBytes : List Byte → List Word
  | [] => []
  | [b0] => [wordOfBytes b0 0#8 0#8 0#8]
  | [b0, b1] => [wordOfBytes b0 b1 0#8 0#8]
  | [b0, b1, b2] => [wordOfBytes b0 b1 b2 0#8]
  | b0 :: b1 :: b2 :: b3 :: bs => wordOfBytes b0 b1 b2 b3 :: wordsOfBytes bs

/-- Format W after its header: `P`, `L`, then the buffer words (spec/30_encoding.md R74). Lanes past the end of a
sequence are ignored; words past the descriptor's length are not read (R77; log entry 5). -/
def decodeWrtxn (a : BitVec 7) : List Word → Except DecodeError Command
  | p :: l :: buf =>
    let np := wordsFor p.toNat
    let nl := wordsFor l.toNat
    if 2 ^ 32 ≤ 1 + p.toNat + l.toNat then .error .tooLong
    else if buf.length < np + nl then .error .tooShort
    else .ok (.wrtxn a ((bytesOfWords (buf.take np)).take p.toNat)
      ((bytesOfWords ((buf.drop np).take nl)).take l.toNat))
  | _ => .error .tooShort

/-- A descriptor whose header has no reserved bit set, by its `OP` (spec/30_encoding.md R72 to R75). -/
def decodeOp (op : BitVec 2) (a : BitVec 7) (rest : List Word) : Except DecodeError Command :=
  if op = 1#2 then decodeWrtxn a rest
  else if a ≠ 0#7 then .error .strayAddress
  else if op = 0#2 then
    match rest with
    | hz :: _ => .ok (.cfgclk hz)
    | [] => .error .tooShort
  else .ok .scan

/-- The command of a descriptor (spec/30_encoding.md R72, R77, R92, R93). -/
def decodeCommand : List Word → Except DecodeError Command
  | [] => .error .tooShort
  | h :: rest =>
    if h.extractLsb' 0 2 = 3#2 then .ok (.reservedOp3 (h.extractLsb' 2 30))
    else if h.extractLsb' 9 23 ≠ 0#23 then .error .reservedBits
    else decodeOp (h.extractLsb' 0 2) (h.extractLsb' 2 7) rest

/-- The decoder (spec/30_encoding.md R89). -/
def decode : Encoding → Except DecodeError Instr
  | .descriptor ws => (decodeCommand ws).map Instr.ofCommand
  | .entry c => decodeEntry c
  | .micro c => decodeMicro c

/-- The header word: `OP` in `[1:0]`, `DEVADDR` in `[8:2]`, the rest 0 (spec/30_encoding.md R72). -/
def headerWord (op : BitVec 2) (a : BitVec 7) : Word := (0#23 ++ a ++ op)

/-- The encoder, from the same tables (spec/30_encoding.md R72 to R77, R86, R89). -/
def encode : Instr → Encoding
  | .cfgclk hz => .descriptor [headerWord 0#2 0#7, hz]
  | .wrtxn a r d => .descriptor (headerWord 1#2 a :: BitVec.ofNat 32 r.length :: BitVec.ofNat 32 d.length ::
      (wordsOfBytes r ++ wordsOfBytes d))
  | .scan => .descriptor [headerWord 2#2 0#7]
  | .reservedOp3 rest => .descriptor [rest ++ 3#2]
  | .sendStart => .entry (MicroState.code .stClr)
  | .pollStart => .entry (MicroState.code .stChk)
  | .txChunk => .entry (MicroState.code .txFifo)
  | .txWait => .entry (MicroState.code .txChk)
  | .sendStop => .entry (MicroState.code .spClr)
  | .pollStop => .entry (MicroState.code .spChk)
  | .disable => .entry (MicroState.code .dis)
  | .idle => .micro (MicroState.code .idle)
  | .ckSel => .micro (MicroState.code .ckSel)
  | .ckDiv => .micro (MicroState.code .ckDiv)
  | .txnInit => .micro (MicroState.code .txnInit)
  | .stClr => .micro (MicroState.code .stClr)
  | .stCon => .micro (MicroState.code .stCon)
  | .stIen => .micro (MicroState.code .stIen)
  | .stChk => .micro (MicroState.code .stChk)
  | .stAck => .micro (MicroState.code .stAck)
  | .stDly => .micro (MicroState.code .stDly)
  | .txFifo => .micro (MicroState.code .txFifo)
  | .txCon => .micro (MicroState.code .txCon)
  | .txCnt => .micro (MicroState.code .txCnt)
  | .txIen => .micro (MicroState.code .txIen)
  | .txChk => .micro (MicroState.code .txChk)
  | .txNak => .micro (MicroState.code .txNak)
  | .txAck => .micro (MicroState.code .txAck)
  | .txDly => .micro (MicroState.code .txDly)
  | .spClr => .micro (MicroState.code .spClr)
  | .spCon => .micro (MicroState.code .spCon)
  | .spIen => .micro (MicroState.code .spIen)
  | .spChk => .micro (MicroState.code .spChk)
  | .spAck => .micro (MicroState.code .spAck)
  | .spDly => .micro (MicroState.code .spDly)
  | .dis => .micro (MicroState.code .dis)
  | .ret => .micro (MicroState.code .ret)
  | .scNext => .micro (MicroState.code .scNext)
  | .scDly => .micro (MicroState.code .scDly)
  | .done => .micro (MicroState.code .done)

/-- The `n` lowest 32-bit words of a number, the first word its least significant bits. -/
def wordsOfNat : Nat → Nat → List Word
  | 0, _ => []
  | n + 1, w => BitVec.ofNat 32 w :: wordsOfNat n (w / 2 ^ 32)

/-- The descriptor whose first `nbits` bits are `w`, filled with zeros up to three words: with `P = L = 0` no
descriptor is longer. -/
def descriptorOfBits (nbits w : Nat) : List Word := wordsOfNat (max 3 ((nbits + 31) / 32)) w

/-- What the decoder gives for a row of spec/opcode_table.json: a row of at most one byte is a code of `upc` (5 bits),
a wider one a descriptor. The seven operation rows have the words of their first micro-operations, and the decoder of
the step relation needs level 3 only (spec/30_encoding.md R89; log entry 6). -/
def decodeTableWord (nbits w : Nat) : Option Instr :=
  if nbits ≤ 8 then
    if w < 32 then (decode (.micro (BitVec.ofNat 5 w))).toOption else none
  else (decode (.descriptor (descriptorOfBits nbits w))).toOption

end Sys2Proof
end

