-- ==== Sys2Proof/Machine/State.lean ====
section
/-! DEFINITION. The machine's state as plain data (spec/10_state.md), why a step can stop, and the state after reset. -/

namespace Sys2Proof.Machine

/-- The command in progress (spec/10_state.md R20 `CMD`; codes in spec/30_encoding.md R87, code 3 never occurs). -/
inductive CmdKind where
  | cfgclk
  | wrtxn
  | scan
deriving DecidableEq, Repr, Inhabited

/-- The two error kinds (spec/60_exceptions.md R200). -/
inductive ErrKind where
  | noAck
  | timeout
deriving DecidableEq, Repr, Inhabited

/-- The values of the first-error latch (spec/10_state.md R28): `noError` is the spec's `None`. -/
inductive ErrLatch where
  | noError
  | error (e : ErrKind)
deriving DecidableEq, Repr, Inhabited

/-- `Result` (spec/00_scope.md R12, spec/30_encoding.md R88). -/
inductive TxnResult where
  | ok
  | noAck
  | timeout
deriving DecidableEq, Repr, Inhabited

/-- `BusConditionResult`, what a wait yields (spec/00_scope.md R12, spec/30_encoding.md R88); it never leaves the block. -/
inductive BusConditionResult where
  | acknowledged
  | timedOut
deriving DecidableEq, Repr, Inhabited

/-- The determination of a probe (spec/00_scope.md R12). -/
inductive Presence where
  | absent
  | present
deriving DecidableEq, Repr, Inhabited

/-- What `Emit` delivers to the host (spec/00_scope.md R17). -/
inductive OutMsg where
  | result (r : TxnResult)
  | report (a : BitVec 7) (p : Presence)
deriving DecidableEq, Repr, Inhabited

/-- The events of the five primitives (spec/00_scope.md R17): `W`, `Rd`, `Dly`, `Cs`, `Out`. The 32 bits of a `Cs`
value are the model's DESIGN CHOICE, log entry 15. -/
inductive Event where
  | w (reg : Reg) (v : Word)
  | rd (reg : Reg) (v : Word)
  | dly (n : Nat)
  | cs (v : Word)
  | out (x : OutMsg)
deriving DecidableEq, Repr, Inhabited

/-- The sequencer registers that can hold no value (spec/10_state.md R20, R46), by name. -/
inductive SeqReg where
  | cmd | devaddr | p | l | r | d | bytesRem | streamOff | chunkSize | wordCnt | wordIdx
  | countdown | sample | err | scanAddr | hz
deriving DecidableEq, Repr, Inhabited

/-- The sequencer registers beside `upc` (spec/10_state.md R20). `none` is the spec's own state "no value"
(spec/10_state.md R46, spec/00_scope.md R19): what reset and `DONE` leave. -/
structure SeqRegs where
  cmd : Option CmdKind := none
  devaddr : Option (BitVec 7) := none
  p : Option Word := none
  l : Option Word := none
  r : Option (List Byte) := none
  d : Option (List Byte) := none
  bytesRem : Option Word := none
  streamOff : Option Word := none
  chunkSize : Option Word := none
  wordCnt : Option Word := none
  wordIdx : Option Word := none
  countdown : Option Word := none
  sample : Option Word := none
  err : Option ErrLatch := none
  scanAddr : Option (BitVec 8) := none
  hz : Option Word := none
deriving DecidableEq, Repr, Inhabited

/-- Every sequencer register but `upc` with no value (spec/10_state.md R45, R46). -/
def SeqRegs.noValues : SeqRegs := {}

/-- The register bank (spec/10_state.md R34). `ipd` holds the four flags; `ipdOther` is what `Ctl` drives on the
other bits of the next `IPD` read (R37, spec/20_memory.md R52). `txdata` has `FIFO_WORDS` entries (R41). -/
structure Bank where
  con : Word
  ien : Word
  clkdiv : Word
  mtxcnt : Word
  ipd : Flags
  ipdOther : Word
  txdata : List Word
deriving DecidableEq, Repr, Inhabited

/-- The state. `cfg`, `env` and `turn` are the model's own fields (log entries 1 and 3): the instance's parameters, the
environment moves already settled, and how many have been taken. -/
structure State where
  cfg : Config
  upc : BitVec 5
  seq : SeqRegs
  bank : Bank
  port : Option (List Word)
  trace : List Event
  env : List EnvMove
  turn : Nat
deriving DecidableEq, Repr, Inhabited

/-- Faults: the machine stops. None is reachable from reset; each is safe, since the model stops where a machine the
spec describes never is. -/
inductive Fault where
  /-- a sequencer register with no value is read (spec/10_state.md R46); raised by every meaning that reads one; safe -/
  | noValue (reg : SeqReg)
  /-- `upc` holds code 29 to 31 (spec/30_encoding.md R94); raised by the fetch; safe -/
  | unusedCode (code : BitVec 5)
  /-- `TXDATA[i]` with `i >= FIFO_WORDS` does not exist (spec/00_scope.md R17); raised by TX_FIFO; safe -/
  | noSuchRegister (i : Nat)
  /-- a request buffer is read outside its length, which is never formed (spec/43_packer.md R142); raised by TX_FIFO
  for the word index it builds; safe -/
  | requestIndex (word : Nat)
  /-- RET while `CMD = CFGCLK`: no row of spec/44_transaction.md R175 matches; raised by RET; safe -/
  | noSuccessor
deriving DecidableEq, Repr, Inhabited

/-- Refusals: the input gets no meaning and the run is marked (spec/00_scope.md R19). -/
inductive Refusal where
  /-- raised by `exec` for an instruction without a meaning; no instruction is left so; safe -/
  | notModelled (mnemonic : String)
  /-- the reserved `OP = 3` (spec/30_encoding.md R92); raised by RESERVED_OP3; safe -/
  | reservedOp
  /-- a malformed descriptor (spec/30_encoding.md R93); raised by the fetch, IDLE and WRTXN; safe -/
  | malformed (e : DecodeError)
  /-- CFGCLK with `HZ = 0` or `HZ != TARGET_SCL_HZ` (spec/40_clock.md R106); raised by CFGCLK and IDLE; safe -/
  | unsupportedFrequency (hz : Word)
deriving DecidableEq, Repr, Inhabited

/-- What a meaning answers. -/
abbrev Answer := Host.Outcome State Fault Refusal

/-- The bank an instance finds at launch: any value (spec/10_state.md R45); free values, log entry 2. -/
def Bank.atLaunch (c : Config) : Bank where
  con := Config.launchCon
  ien := Config.launchIen
  clkdiv := Config.launchClkdiv
  mtxcnt := Config.launchMtxcnt
  ipd := Config.launchIpd
  ipdOther := Config.launchIpdOther
  txdata := (List.range (c.fifoDepthBytes / 4)).map Config.launchTxdata

/-- The launch state of an instance over any bank (spec/70_reset_and_hazards.md R231): `upc = IDLE`, `TRACE` empty, no
sequencer register holds a value. -/
def State.launch (c : Config) (b : Bank) : State where
  cfg := c
  upc := MicroState.code .idle
  seq := SeqRegs.noValues
  bank := b
  port := none
  trace := []
  env := []
  turn := 0

/-- The machine right after reset (spec/10_state.md R45). -/
def State.reset : State := State.launch Config.standard (Bank.atLaunch Config.standard)

end Sys2Proof.Machine
end

