-- ==== Sys2Proof/Machine/Flags.lean ====
section
/-! DEFINITION. The status flags: their bits in `IPD` and `IEN`, setting by `Ctl`, write-one-to-clear, the value an
`IPD` read gives, and the flag tests of a check (spec/10_state.md R37, spec/30_encoding.md R79 to R81). -/

namespace Sys2Proof

/-- The word with one bit set. -/
def bit (n : Nat) : Word := 1#32 <<< n

/-- The position of a flag in `IPD`, and of its enable in `IEN` (spec/30_encoding.md R79, R80). -/
def Layout.pos (y : Layout) : Flag → Nat
  | .start => y.start
  | .stop => y.stop
  | .mbtf => y.mbtf
  | .nakrcv => y.nakrcv

/-- The single-flag mask `{F}` (spec/30_encoding.md R80). -/
def Layout.mask (y : Layout) (f : Flag) : Word := bit (y.pos f)

/-- The four flag positions of `IPD`. -/
def Layout.flagMask (y : Layout) : Word := y.mask .start ||| y.mask .stop ||| y.mask .mbtf ||| y.mask .nakrcv

/-- A flag's value. -/
def Flags.get (x : Flags) : Flag → Bool
  | .start => x.start
  | .stop => x.stop
  | .mbtf => x.mbtf
  | .nakrcv => x.nakrcv

/-- `Ctl` sets a subset of the flags; a flag already set stays set (spec/10_state.md R40). -/
def Flags.setBy (x m : Flags) : Flags where
  start := x.start || m.start
  stop := x.stop || m.stop
  mbtf := x.mbtf || m.mbtf
  nakrcv := x.nakrcv || m.nakrcv

/-- A word has a 1 at a flag's position: the test of a check, `SAMPLE & F != 0` (spec/41_poll.md R111), and of a write
to `IPD` (spec/20_memory.md R51). -/
def hasFlag (y : Layout) (v : Word) (f : Flag) : Bool := v &&& y.mask f != 0#32

/-- Write-one-to-clear: a flag whose bit is 1 in the written word becomes 0, every other keeps its value
(spec/10_state.md R37, spec/20_memory.md R51). -/
def Flags.clearBy (x : Flags) (y : Layout) (v : Word) : Flags where
  start := x.start && !hasFlag y v .start
  stop := x.stop && !hasFlag y v .stop
  mbtf := x.mbtf && !hasFlag y v .mbtf
  nakrcv := x.nakrcv && !hasFlag y v .nakrcv

/-- A flag as its bit of the register. -/
def Flags.bitOf (x : Flags) (y : Layout) (f : Flag) : Word := if x.get f then y.mask f else 0#32

/-- The value of an `IPD` read: each flag at its position, every other bit as `Ctl` drives it (spec/20_memory.md R52). -/
def Flags.word (x : Flags) (y : Layout) (other : Word) : Word :=
  (other &&& ~~~ y.flagMask) ||| x.bitOf y .start ||| x.bitOf y .stop ||| x.bitOf y .mbtf ||| x.bitOf y .nakrcv

end Sys2Proof
end

