-- ==== Sys2Proof/Machine/Operands.lean ====
section
/-! DEFINITION. The values the block writes: register values, the divisor pair, the packer's bytes and words, result
codes; and when a set of parameters is one the rules allow. -/

namespace Sys2Proof

/-! ## Constants and parameters (spec/00_scope.md R6, R7, R8) -/

/-- `POLL_QUANTUM_US` (R6). -/
def pollQuantumUs : Nat := 1

/-- `SCAN_DELAY_US` (R6). -/
def scanDelayUs : Nat := 10

/-- `SCAN_FIRST` (R6). -/
def scanFirst : BitVec 8 := 0x03#8

/-- `SCAN_LAST` (R6). -/
def scanLast : BitVec 8 := 0x77#8

/-- `SCAN_PREFIX_BYTE` (spec/45_scan.md R191). -/
def scanPrefixByte : Byte := 0x00#8

/-- `FIFO_WORDS = FIFO_DEPTH_BYTES / 4` (R7). -/
def Config.fifoWords (c : Config) : Nat := c.fifoDepthBytes / 4

/-- `ceil(a / b)` on naturals (spec/00_scope.md R9). -/
def ceilDiv (a b : Nat) : Nat := (a + b - 1) / b

/-! ## Register values (spec/30_encoding.md R78, R79, R82) -/

/-- `{EN, START}` (R78). -/
def Layout.conStartValue (y : Layout) : Word := bit y.conEn ||| bit y.conStart

/-- `{EN, MODE = MODE_TX}` (R78). -/
def Layout.conTxValue (y : Layout) : Word := bit y.conEn ||| (y.modeTx.setWidth 32 <<< y.conMode)

/-- `{EN, STOP}` (R78). -/
def Layout.conStopValue (y : Layout) : Word := bit y.conEn ||| bit y.conStop

/-- `{STARTIEN}` (R79). -/
def Layout.ienStartValue (y : Layout) : Word := y.mask .start

/-- `{MBTFIEN, NAKRCVIEN}` (R79). -/
def Layout.ienTxValue (y : Layout) : Word := y.mask .mbtf ||| y.mask .nakrcv

/-- `{STOPIEN}` (R79). -/
def Layout.ienStopValue (y : Layout) : Word := y.mask .stop

/-- `{DIVH, DIVL}`: the low 16 bits of each at its field (R82, spec/40_clock.md R100, R103). -/
def Layout.clkdivValue (y : Layout) (divl divh : Nat) : Word :=
  ((BitVec.ofNat 16 divl).setWidth 32 <<< y.divl) ||| ((BitVec.ofNat 16 divh).setWidth 32 <<< y.divh)

/-- The address of a register of the bank (spec/20_memory.md R56); no rule reads it. -/
def Config.address (c : Config) : Reg → Nat
  | .con => c.offsets.base + c.offsets.con
  | .ien => c.offsets.base + c.offsets.ien
  | .ipd => c.offsets.base + c.offsets.ipd
  | .clkdiv => c.offsets.base + c.offsets.clkdiv
  | .mtxcnt => c.offsets.base + c.offsets.mtxcnt
  | .txdata i => c.offsets.base + c.offsets.txdata0 + 4 * i

/-! ## The divisor (spec/40_clock.md R104) -/

/-- The default total divisor `T`. -/
def clkDivTotal (ref hz : Nat) : Nat := max 2 (ceilDiv ref (8 * hz))

/-- The default `ClkDiv`: `(divl, divh)`, the high phase takes the odd unit. -/
def clkDivDefault (ref hz : Nat) : Nat × Nat :=
  let d := clkDivTotal ref hz - 2
  (d / 2, d - d / 2)

/-- `ClkDiv` of the instance: the default function, or one of which only `Config.wf` is known. -/
def Config.divisor (c : Config) (hz : Nat) : Nat × Nat :=
  match c.clkDiv with
  | .standard => clkDivDefault c.refClkHz hz
  | .other k => Config.clkDivOther k c.refClkHz hz

/-! ## Parameters the rules allow -/

/-- `ClkDivNotFaster` (spec/40_clock.md R104), at the one supported target. -/
def Config.notFaster (c : Config) : Bool :=
  let dv := c.divisor c.targetSclHz.toNat
  decide (c.refClkHz ≤ 8 * (dv.1 + 1 + dv.2 + 1) * c.targetSclHz.toNat)

/-- The pair fits its 16-bit fields (spec/40_clock.md R107). -/
def Config.divisorFits (c : Config) : Bool :=
  let dv := c.divisor c.targetSclHz.toNat
  decide (dv.1 ≤ 65535) && decide (dv.2 ≤ 65535)

/-- Within one register the named fields occupy disjoint bits, and `IPD_ALL` covers the four flags
(spec/30_encoding.md section 3, R81). -/
def Layout.wf (y : Layout) : Bool :=
  decide ([y.conEn, y.conMode, y.conMode + 1, y.conStart, y.conStop].Nodup) &&
  [y.conEn, y.conMode + 1, y.conStart, y.conStop, y.mbtf, y.start, y.stop, y.nakrcv].all (fun n => decide (n < 32)) &&
  decide ([y.mbtf, y.start, y.stop, y.nakrcv].Nodup) &&
  hasFlag y y.ipdAll .start && hasFlag y y.ipdAll .stop && hasFlag y y.ipdAll .mbtf && hasFlag y y.ipdAll .nakrcv &&
  decide (y.divl + 16 ≤ y.divh ∨ y.divh + 16 ≤ y.divl) && decide (y.divl + 16 ≤ 32) && decide (y.divh + 16 ≤ 32)

/-- Offsets are multiples of 4 and pairwise distinct, `TXDATA` a run of `words` consecutive words
(spec/20_memory.md R56). -/
def Offsets.wf (o : Offsets) (words : Nat) : Bool :=
  let single := [o.con, o.clkdiv, o.mtxcnt, o.ien, o.ipd]
  decide single.Nodup && (o.txdata0 :: single).all (fun a => a % 4 == 0) &&
  single.all (fun a => decide (a < o.txdata0) || decide (o.txdata0 + 4 * words ≤ a))

/-- The constraints of spec/00_scope.md R7 and R8; a configuration that breaks one is no instance of the block
(spec/40_clock.md R107). -/
def Config.wf (c : Config) : Bool :=
  decide (0 < c.fifoDepthBytes) && c.fifoDepthBytes % 4 == 0 && decide (0 < c.refClkHz) &&
  c.targetSclHz != 0#32 && c.layout.wf && c.offsets.wf c.fifoWords && c.notFaster && c.divisorFits

/-! ## The packer (spec/43_packer.md) -/

/-- `TOTAL = 1 + P + L` (R140), on 32 bits; under spec/10_state.md R21 it never wraps. -/
def totalBytes (p l : Word) : Word := 1#32 + p + l

/-- The address byte `{DEVADDR, RW}` with `RW = 0` (spec/30_encoding.md R85). -/
def addressByte (a : BitVec 7) : Byte := a ++ 0#1

/-- Stream byte `S[k]` (R141); none outside `0 <= k < TOTAL`, which is never formed (R142). -/
def streamByte (a : BitVec 7) (p l : Nat) (r d : List Byte) (k : Nat) : Option Byte :=
  if k = 0 then some (addressByte a)
  else if k ≤ p then r[k - 1]?
  else if k < 1 + p + l then d[k - 1 - p]?
  else none

/-- `B(i, j)` at chunk position `pos = 4*i + j`: the stream byte, or 0x00 past the chunk (R145, R146). -/
def laneByte (stream : Nat → Option Byte) (off chunk pos : Nat) : Option Byte :=
  if pos < chunk then stream (off + pos) else some 0x00#8

/-- `Word(i)` (R145). -/
def fifoWord (stream : Nat → Option Byte) (off chunk i : Nat) : Option Word :=
  match laneByte stream off chunk (4 * i), laneByte stream off chunk (4 * i + 1),
      laneByte stream off chunk (4 * i + 2), laneByte stream off chunk (4 * i + 3) with
  | some b0, some b1, some b2, some b3 => some (wordOfBytes b0 b1 b2 b3)
  | _, _, _, _ => none

/-- `CHUNK_SIZE` of a chunk set up with `bytesRem` bytes left (R143). -/
def chunkSizeOf (depth : Nat) (bytesRem : Word) : Word := BitVec.ofNat 32 (min bytesRem.toNat depth)

/-- `WORD_CNT` of a chunk of `size` bytes (R143). -/
def wordCountOf (size : Word) : Word := BitVec.ofNat 32 ((size.toNat + 3) / 4)

/-! ## Codes (spec/30_encoding.md R87, R88) -/

namespace Machine

/-- `record(e)` on the latch: the first error is kept (spec/00_scope.md R16). -/
def ErrLatch.record (x : ErrLatch) (e : ErrKind) : ErrLatch :=
  match x with
  | .noError => .error e
  | .error e' => .error e'

/-- `None` gives `OK`, `NoAck` gives `NoAck`, `Timeout` gives `Timeout` (spec/10_state.md R28). -/
def ErrLatch.result : ErrLatch → TxnResult
  | .noError => .ok
  | .error .noAck => .noAck
  | .error .timeout => .timeout

/-- A probe is `Present` if `ERR = None`, `Absent` otherwise (spec/45_scan.md R193). -/
def ErrLatch.presence : ErrLatch → Presence
  | .noError => .present
  | .error _ => .absent

/-- `CMD` codes (R87). -/
def CmdKind.code : CmdKind → BitVec 2
  | .cfgclk => 0#2
  | .wrtxn => 1#2
  | .scan => 2#2

/-- `ERR` codes (R88). -/
def ErrLatch.code : ErrLatch → BitVec 2
  | .noError => 0#2
  | .error .noAck => 1#2
  | .error .timeout => 2#2

/-- `Result` codes (R88). -/
def TxnResult.code : TxnResult → BitVec 2
  | .ok => 0#2
  | .noAck => 1#2
  | .timeout => 2#2

/-- `BusConditionResult` codes (R88). -/
def BusConditionResult.code : BusConditionResult → BitVec 1
  | .acknowledged => 0#1
  | .timedOut => 1#1

/-- Presence codes (R88). -/
def Presence.code : Presence → BitVec 1
  | .absent => 0#1
  | .present => 1#1

/-- An `Out` event as a 32-bit word (R88). -/
def OutMsg.word : OutMsg → Word
  | .result r => 0#30 ++ r.code
  | .report a p => 1#1 ++ 0#22 ++ p.code ++ 0#1 ++ a

end Machine

end Sys2Proof
end

