-- ==== Sys2Proof/Machine/Ops.lean ====
section
/-! DEFINITION. The named operations over the state: the five primitives (spec/00_scope.md R17), `record(e)` (the one
operation by which an error is raised, spec/60_exceptions.md R201), `upc <- S`, chunk setup, reset, the environment's
turn between two micro-steps, and sequencing with that turn. -/

namespace Sys2Proof.Machine

/-- Read a sequencer register. "A model makes a read of a no-value register a fault" (spec/10_state.md R46,
spec/93_implementation_defined.md U9); "no value" is what R45 there gives these registers at reset. No run comes to it. -/
def need {α : Type} (reg : SeqReg) (x : Option α) (k : α → Answer) : Answer :=
  match x with
  | some a => k a
  | none => .fault (.noValue reg)

/-- `upc <- S` (spec/00_scope.md R10). -/
def State.goto (s : State) (m : MicroState) : State := { s with upc := m.code }

/-- The machine is at a micro-state. -/
abbrev State.isAt (s : State) (m : MicroState) : Prop := s.upc = m.code

/-- Append one event to `TRACE` (spec/00_scope.md R14). -/
def State.emitEvent (s : State) (e : Event) : State := { s with trace := s.trace ++ [e] }

/-! ## Accesses -/

/-- The store of `v` to a register of the bank: the register becomes `v`, but for `IPD`, whose flags are cleared where
`v` has a 1 (spec/20_memory.md R51). -/
def Bank.store (b : Bank) (y : Layout) : Reg → Word → Bank
  | .con, v => { b with con := v }
  | .ien, v => { b with ien := v }
  | .clkdiv, v => { b with clkdiv := v }
  | .mtxcnt, v => { b with mtxcnt := v }
  | .ipd, v => { b with ipd := b.ipd.clearBy y v }
  | .txdata i, v => { b with txdata := b.txdata.set i v }

/-- `RegWrite(reg, v)` (spec/20_memory.md R51). -/
def State.regWrite (s : State) (reg : Reg) (v : Word) : State :=
  { s with bank := s.bank.store s.cfg.layout reg v, trace := s.trace ++ [.w reg v] }

/-- The value an `IPD` read gives now (spec/20_memory.md R52). -/
def State.ipdWord (s : State) : Word := s.bank.ipd.word s.cfg.layout s.bank.ipdOther

/-- `SAMPLE <- RegRead(IPD)` (spec/20_memory.md R52, spec/10_state.md R30). -/
def State.sampleIpd (s : State) : State :=
  { s with seq := { s.seq with sample := some s.ipdWord }, trace := s.trace ++ [.rd .ipd s.ipdWord] }

/-- `Delay(n)` (spec/41_poll.md R118). -/
def State.delay (s : State) (n : Nat) : State := s.emitEvent (.dly n)

/-- `ClkSelWrite(v)`: the event and nothing else (spec/40_clock.md R102, spec/20_memory.md R67). -/
def State.clkSelWrite (s : State) (v : Word) : State := s.emitEvent (.cs v)

/-- `Emit(x)` (spec/00_scope.md R17). -/
def State.emit (s : State) (x : OutMsg) : State := s.emitEvent (.out x)

/-- The values stored to the clock-selection register since launch or reset, read off `TRACE` (log entry 4). -/
def State.clkSelStores (s : State) : List Word :=
  s.trace.filterMap fun e => match e with | .cs v => some v | _ => none

/-- The last value stored to the clock-selection register since launch or reset. -/
def State.lastClkSel (s : State) : Option Word := s.clkSelStores.getLast?

/-- The clock-selection register (spec/10_state.md R42, R45, R48): unspecified after reset, kept from one store to the
next, and no state beside `TRACE` (spec/40_clock.md R102; log entry 4). -/
def State.clkSelRegister (s : State) : Word := Config.clkSelHeld s.clkSelStores

/-! ## Sequencer actions -/

/-- `COUNTDOWN <- v`. -/
def State.setCountdown (s : State) (v : Word) : State := { s with seq := { s.seq with countdown := some v } }

/-- `record(e)` on the latch's present value `x`: the first error is kept, nothing else is saved and `upc` does not
change (spec/00_scope.md R16, spec/60_exceptions.md R201). -/
def State.record (s : State) (x : ErrLatch) (e : ErrKind) : State :=
  { s with seq := { s.seq with err := some (x.record e) } }

/-- The state `t` if flag test `b` holds, else what `o` answers. Where `o` is a next state, so is this whatever `b` is,
and that can be evaluated with flags the environment has not settled. -/
def ifSeen (b : Bool) (t : State) (o : Answer) : Answer :=
  match o with
  | .next u => .next (if b then t else u)
  | .fault r => if b then .next t else .fault r
  | .refused r => if b then .next t else .refused r

/-- The countdown's part of a check, when no flag ended it: at 0 `Timeout` is recorded and the wait is left, else it goes
on (spec/41_poll.md R111, R116). -/
def State.orTimeout (s : State) (timedOut again : MicroState) : Answer :=
  need .countdown s.seq.countdown fun n =>
    if n = 0#32 then need .err s.seq.err fun x => .next ((s.record x .timeout).goto timedOut)
    else .next (s.goto again)

/-- `ChunkSetup` with `rem` bytes left (spec/43_packer.md R143). -/
def State.chunkSetup (s : State) (rem : Word) : State :=
  { s with seq := { s.seq with
      chunkSize := some (chunkSizeOf s.cfg.fifoDepthBytes rem),
      wordCnt := some (wordCountOf (chunkSizeOf s.cfg.fifoDepthBytes rem)),
      wordIdx := some 0#32 } }

/-- The request latch and `ERR` lose their values, as after `RET` (spec/10_state.md R22, R46). -/
def State.dropRequest (s : State) : State :=
  { s with seq := { s.seq with devaddr := none, p := none, l := none, r := none, d := none, err := none } }

/-- Every sequencer register but `upc` loses its value (spec/44_transaction.md R173). -/
def State.dropValues (s : State) : State := { s with seq := SeqRegs.noValues }

/-- The request latch takes a request (spec/10_state.md R22). -/
def State.latch (s : State) (a : BitVec 7) (r d : List Byte) : State :=
  { s with seq := { s.seq with
      devaddr := some a, p := some (BitVec.ofNat 32 r.length), l := some (BitVec.ofNat 32 d.length),
      r := some r, d := some d } }

/-! ## Reset and the environment -/

/-- The reset input (spec/70_reset_and_hazards.md R230): `upc <- IDLE`, no sequencer register keeps a value, `TRACE` is
empty, the bank is untouched. -/
def State.assertReset (s : State) : State :=
  { s with upc := MicroState.code .idle, seq := SeqRegs.noValues, trace := [] }

/-- The environment's next move: the first one settled, else a free one (log entry 3). -/
def State.envMove (s : State) : EnvMove :=
  match s.env with
  | m :: _ => m
  | [] => Config.freeEnv s.turn

/-- `Ctl`'s half of a move: flags set, other `IPD` bits driven, nothing else (spec/10_state.md R40). -/
def State.ctlMove (s : State) (m : EnvMove) : State :=
  { s with bank := { s.bank with ipd := s.bank.ipd.setBy m.set, ipdOther := m.other },
           env := s.env.tail, turn := s.turn + 1 }

/-- The host's half of a move. A command presented while `upc != IDLE` is not taken and nothing happens
(spec/10_state.md R26); a bank access during a command is no move of the model (spec/70_reset_and_hazards.md R240). -/
def State.hostMove (s : State) (h : HostMove) : State :=
  match h with
  | .quiet => s
  | .present ws => if s.isAt .idle then { s with port := some ws } else s
  | .poke reg v => if s.isAt .idle then { s with bank := s.bank.store s.cfg.layout reg v } else s
  | .reset => s.assertReset

/-- The environment's turn between two micro-steps. -/
def State.envTurn (s : State) : State := (s.ctlMove s.envMove).hostMove s.envMove.host

/-- The environment takes its turn, then `f` runs, unless the turn asserted reset, which abandons what runs. -/
def afterEnv (s : State) (f : State → Answer) : Answer :=
  if s.envMove.host = .reset then .next s.envTurn else f s.envTurn

/-- Go on with `f` if the micro-step before left the machine at micro-state `m`; the environment takes its turn in
between (spec/00_scope.md R14). -/
def thenAt (o : Answer) (m : MicroState) (f : State → Answer) : Answer :=
  match o with
  | .next t => if t.isAt m then afterEnv t f else .next t
  | .fault r => .fault r
  | .refused r => .refused r

end Sys2Proof.Machine
end

