-- ==== Sys2Proof/Machine/Clock.lean ====
section
/-! DEFINITION. The clock configurator's micro-operations (spec/40_clock.md R100 to R104), and the instantiation of a
configuration (R107). -/

namespace Sys2Proof.Machine

/-- CK_SEL: the clock-selection store (spec/40_clock.md R100, R102). -/
def execCkSel (s : State) : Answer :=
  need .hz s.seq.hz fun hz => .next ((s.clkSelWrite (Config.clkSelValue s.cfg hz)).goto .ckDiv)

/-- CK_DIV: the clock-divider store (spec/40_clock.md R100, R103, R104). -/
def execCkDiv (s : State) : Answer :=
  need .hz s.seq.hz fun hz =>
    .next ((s.regWrite .clkdiv
      (s.cfg.layout.clkdivValue (s.cfg.divisor hz.toNat).1 (s.cfg.divisor hz.toNat).2)).goto .done)

/-- A configuration is refused when the model is instantiated, not at run time (spec/40_clock.md R107,
spec/93_implementation_defined.md U8): its launch state over a bank, if the rules allow it. -/
def instantiate (c : Config) (b : Bank) : Option State :=
  if c.wf && decide (b.txdata.length = c.fifoWords) then some (State.launch c b) else none

end Sys2Proof.Machine
end

