-- ==== Sys2Proof/Machine/Command.lean ====
section
/-! DEFINITION. The command port and the ends of a command: CFGCLK, WRTXN, SCAN, the reserved `OP = 3`, and the
micro-operations IDLE, TXN_INIT, RET, DONE (spec/30_encoding.md section 1, spec/44_transaction.md). -/

namespace Sys2Proof.Machine

/-- Acceptance of CFGCLK: refused unless `HZ = TARGET_SCL_HZ` and not 0 (spec/40_clock.md R106); else `HZ` and `CMD`
are latched and `upc` is `CK_SEL` (spec/30_encoding.md R70). -/
def acceptCfgclk (hz : Word) (s : State) : Answer :=
  if hz = 0#32 ∨ hz ≠ s.cfg.targetSclHz then .refused (.unsupportedFrequency hz)
  else .next { s with upc := MicroState.code .ckSel, port := none,
                      seq := { s.seq with cmd := some .cfgclk, hz := some hz } }

/-- Acceptance of WRTXN: refused if `1 + P + L >= 2^32` (spec/30_encoding.md R93); else the request and `CMD` are
latched and `upc` is `TXN_INIT` (R70). -/
def acceptWrtxn (a : BitVec 7) (r d : List Byte) (s : State) : Answer :=
  if lengthsWellFormed r d then
    let t := s.latch a r d
    .next { t with upc := MicroState.code .txnInit, port := none, seq := { t.seq with cmd := some .wrtxn } }
  else .refused (.malformed .tooLong)

/-- Acceptance of SCAN: `CMD` is latched, `SCAN_ADDR <- SCAN_FIRST`, `upc` is `SC_NEXT` (spec/30_encoding.md R70). -/
def acceptScan (s : State) : Answer :=
  .next { s with upc := MicroState.code .scNext, port := none,
                 seq := { s.seq with cmd := some .scan, scanAddr := some scanFirst } }

/-- Acceptance of a command: not a micro-step, no event (spec/30_encoding.md R70, R92). -/
def accept (c : Command) (s : State) : Answer :=
  match c with
  | .cfgclk hz => acceptCfgclk hz s
  | .wrtxn a r d => acceptWrtxn a r d s
  | .scan => acceptScan s
  | .reservedOp3 _ => .refused .reservedOp

/-- The command port is ready only at `IDLE`: a command presented at any other time is not taken and nothing happens
(spec/10_state.md R26). -/
def whenReady (s : State) (f : State → Answer) : Answer :=
  if s.isAt .idle then f s else .next s

/-- CFGCLK (spec/40_clock.md R100): its acceptance; CK_SEL and CK_DIV do the rest. -/
def execCfgclk (hz : Word) (s : State) : Answer := whenReady s (accept (.cfgclk hz))

/-- WRTXN (spec/44_transaction.md R160): its acceptance; the micro-operations from TXN_INIT do the rest. -/
def execWrtxn (a : BitVec 7) (r d : List Byte) (s : State) : Answer := whenReady s (accept (.wrtxn a r d))

/-- SCAN (spec/45_scan.md R190): its acceptance; the micro-operations from SC_NEXT do the rest. -/
def execScan (s : State) : Answer := whenReady s (accept .scan)

/-- The reserved `OP = 3`: refused (spec/30_encoding.md R92). -/
def execReservedOp3 (_rest : BitVec 30) (_s : State) : Answer := .refused .reservedOp

/-- IDLE (spec/44_transaction.md R175): with no descriptor at the port nothing happens; a well-formed one is accepted;
a malformed one is refused (spec/30_encoding.md R93). -/
def execIdle (s : State) : Answer :=
  match s.port with
  | none => .next (s.goto .idle)
  | some ws =>
    match decodeCommand ws with
    | .ok c => accept c s
    | .error e => .refused (.malformed e)

/-- TXN_INIT (spec/44_transaction.md R162, R175). -/
def execTxnInit (s : State) : Answer :=
  need .p s.seq.p fun p => need .l s.seq.l fun l =>
    .next (({ s with seq := { s.seq with
      err := some .noError, bytesRem := some (totalBytes p l), streamOff := some 0#32 } } : State).goto .stClr)

/-- RET (spec/44_transaction.md R172, R175, spec/45_scan.md R193): the result of a WRTXN or the report of a probe.
After it the request latch and `ERR` have no value (spec/10_state.md R22, R46; log entry 7). -/
def execRet (s : State) : Answer :=
  need .cmd s.seq.cmd fun c =>
    match c with
    | .wrtxn => need .err s.seq.err fun x => .next (((s.emit (.result x.result)).dropRequest).goto .done)
    | .scan => need .err s.seq.err fun x => need .devaddr s.seq.devaddr fun a =>
        .next (((s.emit (.report a x.presence)).dropRequest).goto .scDly)
    | .cfgclk => .fault .noSuccessor

/-- DONE (spec/44_transaction.md R173, R175). -/
def execDone (s : State) : Answer := .next (s.dropValues.goto .idle)

end Sys2Proof.Machine
end

