-- ==== Sys2Proof/Machine/Scan.lean ====
section
/-! DEFINITION. The bus-scan utility's micro-operations (spec/45_scan.md, spec/44_transaction.md R175). -/

namespace Sys2Proof.Machine

/-- SC_NEXT: the probe request of `SCAN_ADDR` (spec/45_scan.md R191). -/
def execScNext (s : State) : Answer :=
  need .scanAddr s.seq.scanAddr fun a => .next ((s.latch (a.setWidth 7) [scanPrefixByte] []).goto .txnInit)

/-- SC_DLY: the inter-probe delay and the next address (spec/45_scan.md R192, R194). -/
def execScDly (s : State) : Answer :=
  need .scanAddr s.seq.scanAddr fun a =>
    let t := s.delay scanDelayUs
    .next (({ t with seq := { t.seq with scanAddr := some (a + 1#8) } } : State).goto
      (if scanLast < a + 1#8 then .done else .scNext))

end Sys2Proof.Machine
end

