-- ==== Sys2Proof/Machine/StartStop.lean ====
section
/-! DEFINITION. The start and stop controllers and `disable` (spec/42_startstop.md), with the single-flag poll of
spec/41_poll.md R111: the micro-operations ST_*, SP_*, DIS and the operations made of them. -/

namespace Sys2Proof.Machine

/-! ## Shared shapes -/

/-- A store of the bank and the successor. -/
def storeStep (reg : Reg) (v : Word) (m : MicroState) (s : State) : Answer := .next ((s.regWrite reg v).goto m)

/-- The store before a wait: `COUNTDOWN <- TIMEOUT_BUDGET` in the same micro-step (spec/10_state.md R29). -/
def armStep (v : Word) (m : MicroState) (s : State) : Answer :=
  .next (((s.regWrite .ien v).setCountdown s.cfg.timeoutBudget).goto m)

/-- One check of a single-flag wait (spec/41_poll.md R111): the flag first, the countdown only when the flag was found
clear. -/
def checkStep (f : Flag) (found timedOut again : MicroState) (s : State) : Answer :=
  ifSeen (hasFlag s.cfg.layout s.ipdWord f) (s.sampleIpd.goto found) (s.sampleIpd.orTimeout timedOut again)

/-- One quantum of a wait (spec/41_poll.md R111): the delay and the decrement share the micro-step. -/
def quantumStep (m : MicroState) (s : State) : Answer :=
  need .countdown s.seq.countdown fun n => .next (((s.delay pollQuantumUs).setCountdown (n - 1#32)).goto m)

/-! ## Start (spec/42_startstop.md R125, spec/44_transaction.md R175) -/

/-- ST_CLR -/
def execStClr (s : State) : Answer := storeStep .ipd s.cfg.layout.ipdAll .stCon s

/-- ST_CON -/
def execStCon (s : State) : Answer := storeStep .con s.cfg.layout.conStartValue .stIen s

/-- ST_IEN -/
def execStIen (s : State) : Answer := armStep s.cfg.layout.ienStartValue .stChk s

/-- ST_CHK -/
def execStChk (s : State) : Answer := checkStep .start .stAck .spClr .stDly s

/-- ST_ACK -/
def execStAck (s : State) : Answer :=
  need .bytesRem s.seq.bytesRem fun rem =>
    .next (((s.regWrite .ipd (s.cfg.layout.mask .start)).chunkSetup rem).goto .txFifo)

/-- ST_DLY -/
def execStDly (s : State) : Answer := quantumStep .stChk s

/-! ## Stop (spec/42_startstop.md R129, spec/44_transaction.md R175) -/

/-- SP_CLR -/
def execSpClr (s : State) : Answer := storeStep .ipd s.cfg.layout.ipdAll .spCon s

/-- SP_CON -/
def execSpCon (s : State) : Answer := storeStep .con s.cfg.layout.conStopValue .spIen s

/-- SP_IEN -/
def execSpIen (s : State) : Answer := armStep s.cfg.layout.ienStopValue .spChk s

/-- SP_CHK -/
def execSpChk (s : State) : Answer := checkStep .stop .spAck .dis .spDly s

/-- SP_ACK -/
def execSpAck (s : State) : Answer := storeStep .ipd (s.cfg.layout.mask .stop) .dis s

/-- SP_DLY -/
def execSpDly (s : State) : Answer := quantumStep .spChk s

/-- DIS (spec/42_startstop.md R132) -/
def execDis (s : State) : Answer := storeStep .con 0#32 .ret s

/-! ## The operations -/

/-- The quanta left to a wait; with no value in `COUNTDOWN` there is one check, which faults if it comes to read it. -/
def State.quanta (s : State) : Nat := (s.seq.countdown.getD 0#32).toNat

/-- The loop of `poll(STARTIPD)` with `n` quanta left (spec/41_poll.md R111); it runs with `n` the value of
`COUNTDOWN`, and with none left the check is the last. -/
def pollStartLoop : Nat → State → Answer
  | 0, s => thenAt (execStChk s) .stAck execStAck
  | n + 1, s =>
    thenAt (thenAt (execStChk s) .stAck execStAck) .stDly fun t => thenAt (execStDly t) .stChk (pollStartLoop n)

/-- `poll(STARTIPD)` (spec/41_poll.md R111). -/
def execPollStart (s : State) : Answer := pollStartLoop s.quanta s

/-- `sendStart` (spec/42_startstop.md R125). -/
def execSendStart (s : State) : Answer :=
  thenAt (thenAt (thenAt (execStClr s) .stCon execStCon) .stIen execStIen) .stChk execPollStart

/-- The loop of `poll(STOPIPD)` with `n` quanta left (spec/41_poll.md R111). -/
def pollStopLoop : Nat → State → Answer
  | 0, s => thenAt (execSpChk s) .spAck execSpAck
  | n + 1, s =>
    thenAt (thenAt (execSpChk s) .spAck execSpAck) .spDly fun t => thenAt (execSpDly t) .spChk (pollStopLoop n)

/-- `poll(STOPIPD)` (spec/41_poll.md R111). -/
def execPollStop (s : State) : Answer := pollStopLoop s.quanta s

/-- `sendStop` (spec/42_startstop.md R129). -/
def execSendStop (s : State) : Answer :=
  thenAt (thenAt (thenAt (execSpClr s) .spCon execSpCon) .spIen execSpIen) .spChk execPollStop

/-- `disable` (spec/42_startstop.md R132): one micro-step. -/
def execDisable (s : State) : Answer := storeStep .con 0#32 .ret s

end Sys2Proof.Machine
end

