-- ==== Sys2Proof/Machine/Transmit.lean ====
section
/-! DEFINITION. The transmit phase: FIFO load (spec/43_packer.md R147), trigger (spec/44_transaction.md R166), the
two-flag poll (spec/41_poll.md R116) and the advance to the next chunk (spec/44_transaction.md R168, R169). -/

namespace Sys2Proof.Machine

/-- `RegWrite(TXDATA[i], v)` for a register that exists (spec/00_scope.md R17). -/
def txdataWrite (i : Word) (v : Option Word) (s : State) (k : State → Answer) : Answer :=
  if i.toNat < s.cfg.fifoWords then
    match v with
    | some w => k (s.regWrite (.txdata i.toNat) w)
    | none => .fault (.requestIndex i.toNat)
  else .fault (.noSuchRegister i.toNat)

/-- `Word(i)` of the current chunk (spec/43_packer.md R145), from the request latch, `STREAM_OFF` and `CHUNK_SIZE`
alone (R149). -/
def chunkWord (s : State) (i : Word) (k : Option Word → Answer) : Answer :=
  need .devaddr s.seq.devaddr fun a => need .p s.seq.p fun p => need .l s.seq.l fun l =>
  need .r s.seq.r fun r => need .d s.seq.d fun d =>
  need .streamOff s.seq.streamOff fun off => need .chunkSize s.seq.chunkSize fun size =>
    k (fifoWord (streamByte a p.toNat l.toNat r d) off.toNat size.toNat i.toNat)

/-- TX_FIFO (spec/43_packer.md R147, spec/44_transaction.md R175). -/
def execTxFifo (s : State) : Answer :=
  need .wordIdx s.seq.wordIdx fun i => need .wordCnt s.seq.wordCnt fun cnt =>
    chunkWord s i fun w => txdataWrite i w s fun t =>
      .next (({ t with seq := { t.seq with wordIdx := some (i + 1#32) } } : State).goto
        (if i + 1#32 = cnt then .txCon else .txFifo))

/-- TX_CON (spec/44_transaction.md R166) -/
def execTxCon (s : State) : Answer := storeStep .con s.cfg.layout.conTxValue .txCnt s

/-- TX_CNT: `zext_32(CHUNK_SIZE)` (spec/44_transaction.md R166, spec/30_encoding.md R83) -/
def execTxCnt (s : State) : Answer :=
  need .chunkSize s.seq.chunkSize fun size => storeStep .mtxcnt size .txIen s

/-- TX_IEN (spec/44_transaction.md R166) -/
def execTxIen (s : State) : Answer := armStep s.cfg.layout.ienTxValue .txChk s

/-- TX_CHK (spec/41_poll.md R116, spec/44_transaction.md R175): one sample for both flags, NACK before completion
before the countdown (spec/60_exceptions.md R207). -/
def execTxChk (s : State) : Answer :=
  ifSeen (hasFlag s.cfg.layout s.ipdWord .nakrcv) (s.sampleIpd.goto .txNak)
    (ifSeen (hasFlag s.cfg.layout s.ipdWord .mbtf) (s.sampleIpd.goto .txAck)
      (s.sampleIpd.orTimeout .spClr .txDly))

/-- TX_NAK (spec/41_poll.md R116, spec/44_transaction.md R175): falls through on the same `SAMPLE`, completion first,
then the countdown. `NoAck` is recorded here, so no timeout is. -/
def execTxNak (s : State) : Answer :=
  need .sample s.seq.sample fun v => need .err s.seq.err fun x =>
    let t := (s.regWrite .ipd (s.cfg.layout.mask .nakrcv)).record x .noAck
    if hasFlag s.cfg.layout v .mbtf then .next (t.goto .txAck)
    else need .countdown s.seq.countdown fun n => .next (t.goto (if n = 0#32 then .spClr else .txDly))

/-- The advance (spec/44_transaction.md R169): `rem` and `off` are the new `BYTES_REM` and `STREAM_OFF`, and a chunk
is set up if bytes are left. -/
def State.advance (s : State) (rem off : Word) : State :=
  let t : State := { s with seq := { s.seq with bytesRem := some rem, streamOff := some off } }
  if rem = 0#32 then t.goto .spClr else (t.chunkSetup rem).goto .txFifo

/-- TX_ACK (spec/44_transaction.md R168, R169, R175): after an error no further chunk is sent. -/
def execTxAck (s : State) : Answer :=
  need .err s.seq.err fun x =>
    match x with
    | .error _ => storeStep .ipd (s.cfg.layout.mask .mbtf) .spClr s
    | .noError =>
      need .bytesRem s.seq.bytesRem fun rem => need .streamOff s.seq.streamOff fun off =>
      need .chunkSize s.seq.chunkSize fun size =>
        .next ((s.regWrite .ipd (s.cfg.layout.mask .mbtf)).advance (rem - size) (off + size))

/-- TX_DLY (spec/41_poll.md R116) -/
def execTxDly (s : State) : Answer := quantumStep .txChk s

/-! ## The operations -/

/-- The FIFO load (spec/43_packer.md R147) with `n` further words after this one. -/
def fifoLoad : Nat → State → Answer
  | 0, s => execTxFifo s
  | n + 1, s => thenAt (execTxFifo s) .txFifo (fifoLoad n)

/-- `txChunk`: the FIFO load (spec/43_packer.md R147), then the trigger (spec/44_transaction.md R166). -/
def execTxChunk (s : State) : Answer :=
  need .wordIdx s.seq.wordIdx fun i => need .wordCnt s.seq.wordCnt fun cnt =>
    thenAt (thenAt (thenAt (fifoLoad (cnt - i - 1#32).toNat s) .txCon execTxCon) .txCnt execTxCnt) .txIen execTxIen

/-- One check of the transmit wait with its clears (spec/41_poll.md R116). -/
def txCheck (s : State) : Answer := thenAt (thenAt (execTxChk s) .txNak execTxNak) .txAck execTxAck

/-- The loop of `txWait` with `n` quanta left (spec/41_poll.md R116). -/
def txWaitLoop : Nat → State → Answer
  | 0, s => txCheck s
  | n + 1, s => thenAt (txCheck s) .txDly fun t => thenAt (execTxDly t) .txChk (txWaitLoop n)

/-- `txWait` (spec/41_poll.md R116). -/
def execTxWait (s : State) : Answer := txWaitLoop s.quanta s

end Sys2Proof.Machine
end

