-- ==== Sys2Proof/Machine/Dispatch.lean ====
section
/-! DEFINITION. One arm per constructor of `Instr`, each one direct call of its meaning. -/

namespace Sys2Proof.Machine

def exec (i : Instr) (s : State) : Host.Outcome State Fault Refusal :=
  match i with
  | .cfgclk hz => Sys2Proof.Machine.execCfgclk hz s
  | .wrtxn a r d => Sys2Proof.Machine.execWrtxn a r d s
  | .scan => Sys2Proof.Machine.execScan s
  | .reservedOp3 rest => Sys2Proof.Machine.execReservedOp3 rest s
  | .sendStart => Sys2Proof.Machine.execSendStart s
  | .pollStart => Sys2Proof.Machine.execPollStart s
  | .txChunk => Sys2Proof.Machine.execTxChunk s
  | .txWait => Sys2Proof.Machine.execTxWait s
  | .sendStop => Sys2Proof.Machine.execSendStop s
  | .pollStop => Sys2Proof.Machine.execPollStop s
  | .disable => Sys2Proof.Machine.execDisable s
  | .idle => Sys2Proof.Machine.execIdle s
  | .ckSel => Sys2Proof.Machine.execCkSel s
  | .ckDiv => Sys2Proof.Machine.execCkDiv s
  | .txnInit => Sys2Proof.Machine.execTxnInit s
  | .stClr => Sys2Proof.Machine.execStClr s
  | .stCon => Sys2Proof.Machine.execStCon s
  | .stIen => Sys2Proof.Machine.execStIen s
  | .stChk => Sys2Proof.Machine.execStChk s
  | .stAck => Sys2Proof.Machine.execStAck s
  | .stDly => Sys2Proof.Machine.execStDly s
  | .txFifo => Sys2Proof.Machine.execTxFifo s
  | .txCon => Sys2Proof.Machine.execTxCon s
  | .txCnt => Sys2Proof.Machine.execTxCnt s
  | .txIen => Sys2Proof.Machine.execTxIen s
  | .txChk => Sys2Proof.Machine.execTxChk s
  | .txNak => Sys2Proof.Machine.execTxNak s
  | .txAck => Sys2Proof.Machine.execTxAck s
  | .txDly => Sys2Proof.Machine.execTxDly s
  | .spClr => Sys2Proof.Machine.execSpClr s
  | .spCon => Sys2Proof.Machine.execSpCon s
  | .spIen => Sys2Proof.Machine.execSpIen s
  | .spChk => Sys2Proof.Machine.execSpChk s
  | .spAck => Sys2Proof.Machine.execSpAck s
  | .spDly => Sys2Proof.Machine.execSpDly s
  | .dis => Sys2Proof.Machine.execDis s
  | .ret => Sys2Proof.Machine.execRet s
  | .scNext => Sys2Proof.Machine.execScNext s
  | .scDly => Sys2Proof.Machine.execScDly s
  | .done => Sys2Proof.Machine.execDone s

end Sys2Proof.Machine
end

