-- ==== Sys2Proof/Machine/Fetch.lean ====
section
/-! DEFINITION. What the machine runs next: the command a host presents while `upc = IDLE` (spec/30_encoding.md R70),
else the micro-operation of `upc` (spec/10_state.md R24); and placing an instruction where the next step finds it. -/

namespace Sys2Proof.Machine

/-- The raw form the machine decodes next. -/
def State.fetch (s : State) : Encoding :=
  match s.port with
  | some ws => if s.isAt .idle then .descriptor ws else .micro s.upc
  | none => .micro s.upc

/-- What a refused decoding ends in: an unused code of `upc` is a fault (spec/30_encoding.md R94), a malformed
descriptor a refusal (R93). -/
def stopOf : DecodeError → Answer
  | .unusedMicroCode c => .fault (.unusedCode c)
  | e => .refused (.malformed e)

/-- An environment that does nothing in the next turn. -/
def EnvMove.still : EnvMove := { set := { start := false, stop := false, mbtf := false, nakrcv := false },
                                 other := 0#32, host := .quiet }

/-- The sequencer registers, each one with no value given a value, so that a micro-operation placed by
`State.withFetchWord` finds its operands: those of a one-byte WRTXN in its first chunk. A test aid, not hardware;
log entry 8. -/
def SeqRegs.filled (q : SeqRegs) (c : Config) : SeqRegs where
  cmd := some (q.cmd.getD .wrtxn)
  devaddr := some (q.devaddr.getD 0#7)
  p := some (q.p.getD 0#32)
  l := some (q.l.getD 0#32)
  r := some (q.r.getD [])
  d := some (q.d.getD [])
  bytesRem := some (q.bytesRem.getD 1#32)
  streamOff := some (q.streamOff.getD 0#32)
  chunkSize := some (q.chunkSize.getD 1#32)
  wordCnt := some (q.wordCnt.getD 1#32)
  wordIdx := some (q.wordIdx.getD 0#32)
  countdown := some (q.countdown.getD 1#32)
  sample := some (q.sample.getD 0#32)
  err := some (q.err.getD .noError)
  scanAddr := some (q.scanAddr.getD scanFirst)
  hz := some (q.hz.getD c.targetSclHz)

/-- A descriptor presented at the command port of an idle block. -/
def State.placeDescriptor (s : State) (ws : List Word) : State :=
  { s with upc := MicroState.code .idle, port := some ws, env := EnvMove.still :: s.env }

/-- A micro-operation about to run. At IDLE the sequencer registers stay as they are. -/
def State.placeMicro (s : State) (c : BitVec 5) : State :=
  { s with upc := c, port := none, env := EnvMove.still :: s.env,
           seq := if c = MicroState.code .idle then s.seq else s.seq.filled s.cfg }

/-- The instruction of a row of spec/opcode_table.json placed where the next step runs it; read as
`decodeTableWord` reads it. -/
def State.placeWord (s : State) (nbits w : Nat) : State :=
  if nbits ≤ 8 then s.placeMicro (BitVec.ofNat 5 w) else s.placeDescriptor (descriptorOfBits nbits w)

end Sys2Proof.Machine
end

