-- ==== Sys2Proof/Machine/Step.lean ====
section
/-! DEFINITION. One step: the environment's turn, then the instruction fetched (spec/00_scope.md R14). -/

namespace Sys2Proof.Machine

/-- Decode what is fetched and run it. -/
def runFetched (s : State) : Host.Outcome State Fault Refusal :=
  match decode s.fetch with
  | .ok i => exec i s
  | .error e => stopOf e

/-- One step of the machine: `Ctl` and the host take their turn, then `Seq` executes one micro-step, or takes a
command (spec/00_scope.md R5, R14; spec/10_state.md R24). -/
def step (s : State) : Host.Outcome State Fault Refusal := afterEnv s runFetched

/-- `s` with a row's instruction placed so that the next step runs it (log entry 8). -/
def State.withFetchWord (s : State) (nbits w : Nat) : State := s.placeWord nbits w

end Sys2Proof.Machine
end

