-- ==== Sys2Proof/Machine/Result.lean ====
section
/-! DEFINITION. The `BusConditionResult` of the operations that wait (spec/00_scope.md R12): `poll`, `txWait`,
`sendStart`, `sendStop`. -/

namespace Sys2Proof.Machine

/-- What the wait for flag `f` that an answer ends with returned: the clear of `f` is the last thing an acknowledged wait
does (spec/41_poll.md R114, R116), and no timed-out wait clears `f` (R115, R116). None if the operation stopped, or if
a reset abandoned it. -/
def waitResult (f : Flag) (o : Answer) : Option BusConditionResult :=
  match o with
  | .next t =>
    if t.isAt .idle then none
    else some (if t.trace.getLast? = some (.w .ipd (t.cfg.layout.mask f)) then .acknowledged else .timedOut)
  | .fault _ | .refused _ => none

/-- `poll(STARTIPD)` returns (spec/41_poll.md R111). -/
def pollStartResult (s : State) : Option BusConditionResult := waitResult .start (execPollStart s)

/-- `poll(STOPIPD)` returns (spec/41_poll.md R111). -/
def pollStopResult (s : State) : Option BusConditionResult := waitResult .stop (execPollStop s)

/-- `txWait` returns (spec/41_poll.md R116). -/
def txWaitResult (s : State) : Option BusConditionResult := waitResult .mbtf (execTxWait s)

/-- `sendStart` returns the result of its poll (spec/42_startstop.md R125). -/
def sendStartResult (s : State) : Option BusConditionResult := waitResult .start (execSendStart s)

/-- `sendStop` returns the result of its poll (spec/42_startstop.md R129). -/
def sendStopResult (s : State) : Option BusConditionResult := waitResult .stop (execSendStop s)

end Sys2Proof.Machine
end

