-- ==== Sys2Proof/Safety.lean ====
section
/-! DEFINITION. What claims speak of: the invariant of every run, the observation of spec/10_state.md R49, and the named
assumptions on the environment (spec/10_state.md R40). -/

namespace Sys2Proof.Machine

/-! ## Groups of micro-states (spec/10_state.md R25, spec/44_transaction.md R176) -/

/-- `upc` holds the code of one of these micro-states. -/
abbrev State.within (s : State) (ms : List MicroState) : Prop := s.upc ∈ ms.map MicroState.code

def clockStates : List MicroState := [.ckSel, .ckDiv]
def startStates : List MicroState := [.stClr, .stCon, .stIen, .stChk, .stAck, .stDly]
def sendStates : List MicroState := [.txFifo, .txCon, .txCnt, .txIen, .txChk, .txNak, .txAck, .txDly]
def stopStates : List MicroState := [.spClr, .spCon, .spIen, .spChk, .spAck, .spDly]
def disabledStates : List MicroState := [.dis, .ret]

/-- A transaction after `TXN_INIT`. -/
def runningStates : List MicroState := startStates ++ sendStates ++ stopStates ++ disabledStates

/-- A transaction, entry included. -/
def txnStates : List MicroState := .txnInit :: runningStates

/-- The micro-states whose row tests or counts down the budget of a wait (spec/41_poll.md). -/
def waitStates : List MicroState := [.stChk, .stDly, .txChk, .txNak, .txDly, .spChk, .spDly]

/-! ## The invariant -/

/-- The length of the latched request, `TOTAL` (spec/10_state.md R23). -/
def SeqRegs.total (q : SeqRegs) : Nat := 1 + (q.r.getD []).length + (q.d.getD []).length

/-- The instance is one the rules allow, and `TXDATA` has `FIFO_WORDS` registers (spec/10_state.md R41). -/
abbrev State.ConfigOk (s : State) : Prop := s.cfg.wf = true ∧ s.bank.txdata.length = s.cfg.fifoWords

/-- `upc` holds one of the 29 codes (spec/30_encoding.md R94). -/
abbrev State.CodeOk (s : State) : Prop := s.upc.toNat < 29

/-- Between two commands no sequencer register holds a value (spec/10_state.md R48). -/
abbrev State.IdleOk (s : State) : Prop := s.isAt .idle → s.seq = SeqRegs.noValues

/-- The clock configurator runs on the one supported target (spec/40_clock.md R106). -/
abbrev State.ClockOk (s : State) : Prop :=
  s.within clockStates → s.seq.cmd = some .cfgclk ∧ s.seq.hz = some s.cfg.targetSclHz

/-- A transaction belongs to a WRTXN or a SCAN, and the latch holds its request (spec/10_state.md R21, R22). -/
abbrev State.RequestOk (s : State) : Prop :=
  s.within txnStates →
    (s.seq.cmd = some .wrtxn ∨ s.seq.cmd = some .scan) ∧
    s.seq.devaddr.isSome ∧ s.seq.r.isSome ∧ s.seq.d.isSome ∧
    s.seq.p = s.seq.r.map (fun r => BitVec.ofNat 32 r.length) ∧
    s.seq.l = s.seq.d.map (fun d => BitVec.ofNat 32 d.length) ∧ s.seq.total < 2 ^ 32

/-- An address the scan probes (spec/45_scan.md R192). -/
def probed (a : BitVec 8) : Bool := decide (scanFirst ≤ a) && decide (a ≤ scanLast)

/-- During a SCAN the next address is in range and a running transaction is the probe of it
(spec/10_state.md R31, spec/45_scan.md R191). -/
abbrev State.ScanOk (s : State) : Prop :=
  (s.within [.scNext, .scDly] → s.seq.cmd = some .scan ∧ s.seq.scanAddr.any probed = true) ∧
  (s.within txnStates → s.seq.cmd = some .scan →
    s.seq.scanAddr.any probed = true ∧ s.seq.devaddr = s.seq.scanAddr.map (fun a => a.setWidth 7) ∧
    s.seq.r = some [scanPrefixByte] ∧ s.seq.d = some [])

/-- `STREAM_OFF + BYTES_REM = TOTAL` (spec/10_state.md R23), and `ERR` holds a value. -/
abbrev State.StreamOk (s : State) : Prop :=
  s.within runningStates → s.seq.err.isSome ∧ s.seq.bytesRem.isSome ∧ s.seq.streamOff.isSome ∧
    (s.seq.streamOff.getD 0#32).toNat + (s.seq.bytesRem.getD 0#32).toNat = s.seq.total

/-- Nothing has been sent and no error recorded while the start controller runs. -/
abbrev State.StartOk (s : State) : Prop :=
  s.within startStates → s.seq.err = some .noError ∧ s.seq.streamOff = some 0#32

/-- While sending, the current chunk is set up, non-empty, and starts at a multiple of the depth
(spec/43_packer.md R143, R144). -/
abbrev State.ChunkOk (s : State) : Prop :=
  s.within sendStates →
    s.seq.bytesRem.getD 0#32 ≠ 0#32 ∧
    s.seq.chunkSize = s.seq.bytesRem.map (chunkSizeOf s.cfg.fifoDepthBytes) ∧
    s.seq.wordCnt = s.seq.chunkSize.map wordCountOf ∧
    (s.seq.streamOff.getD 0#32).toNat % s.cfg.fifoDepthBytes = 0

/-- The next word is one of the chunk's until all are loaded (spec/43_packer.md R147). -/
abbrev State.FifoOk (s : State) : Prop :=
  (s.isAt .txFifo → s.seq.wordIdx.isSome ∧ s.seq.wordIdx.getD 0#32 < s.seq.wordCnt.getD 0#32) ∧
  (s.within [.txCon, .txCnt, .txIen, .txChk, .txNak, .txAck, .txDly] → s.seq.wordIdx = s.seq.wordCnt)

/-- A chunk is loaded and triggered only while no error is recorded, and during its wait the only error there can be
is a NACK (spec/44_transaction.md R168). -/
abbrev State.SendErrOk (s : State) : Prop :=
  (s.within [.txFifo, .txCon, .txCnt, .txIen] → s.seq.err = some .noError) ∧
  (s.within [.txChk, .txNak, .txAck, .txDly] → s.seq.err ≠ some (.error .timeout))

/-- A wait's budget: never above its start value, and never 0 where it is about to be decremented
(spec/10_state.md R29). -/
abbrev State.WaitOk (s : State) : Prop :=
  (s.within waitStates → s.seq.countdown.isSome ∧ s.seq.countdown.getD 0#32 ≤ s.cfg.timeoutBudget) ∧
  (s.within [.stDly, .txDly, .spDly] → s.seq.countdown.getD 0#32 ≠ 0#32)

/-- `TX_NAK` runs on a sample in which the NACK flag was seen (spec/41_poll.md R116). -/
abbrev State.SampleOk (s : State) : Prop :=
  s.isAt .txNak → s.seq.sample.any (fun v => hasFlag s.cfg.layout v .nakrcv) = true

/-- What `CON` holds in each phase (spec/10_state.md R35, spec/42_startstop.md R128). -/
abbrev State.ConOk (s : State) : Prop :=
  (s.within [.stIen, .stChk, .stAck, .stDly] → s.bank.con = s.cfg.layout.conStartValue) ∧
  (s.within [.txCnt, .txIen, .txChk, .txNak, .txAck, .txDly] → s.bank.con = s.cfg.layout.conTxValue) ∧
  (s.within [.spIen, .spChk, .spAck, .spDly, .dis] → s.bank.con = s.cfg.layout.conStopValue) ∧
  (s.within [.ret, .scDly] → s.bank.con = 0#32) ∧
  (s.isAt .done → s.seq.cmd.isSome ∧ (s.seq.cmd ≠ some .cfgclk → s.bank.con = 0#32))

/-- Exactly the sources of the current wait are enabled (spec/60_exceptions.md R204). -/
abbrev State.IenOk (s : State) : Prop :=
  (s.within [.stChk, .stAck, .stDly] → s.bank.ien = s.cfg.layout.ienStartValue) ∧
  (s.within [.txChk, .txNak, .txAck, .txDly] → s.bank.ien = s.cfg.layout.ienTxValue) ∧
  (s.within [.spChk, .spAck, .spDly, .dis, .ret, .scDly] → s.bank.ien = s.cfg.layout.ienStopValue)

/-- The controller is told the chunk's byte count before the wait begins (spec/30_encoding.md R83). -/
abbrev State.CountOk (s : State) : Prop :=
  s.within [.txIen, .txChk, .txNak, .txAck, .txDly] → some s.bank.mtxcnt = s.seq.chunkSize

/-- The invariant of every run from a launch state. -/
structure State.Inv (s : State) : Prop where
  config : s.ConfigOk
  code : s.CodeOk
  idle : s.IdleOk
  clock : s.ClockOk
  request : s.RequestOk
  scan : s.ScanOk
  stream : s.StreamOk
  start : s.StartOk
  chunk : s.ChunkOk
  fifo : s.FifoOk
  sendErr : s.SendErrOk
  wait : s.WaitOk
  sample : s.SampleOk
  con : s.ConOk
  ien : s.IenOk
  count : s.CountOk

/-! ## Observation (spec/10_state.md R49) -/

/-- The `Out` events, in order. -/
def outsOf (t : List Event) : List OutMsg := t.filterMap fun e => match e with | .out x => some x | _ => none

/-- The events an observer may speak of: `W`, `Cs`, `Dly`, in order; `Rd` values are inputs. -/
def visibleOf (t : List Event) : List Event :=
  t.filter fun e => match e with | .w _ _ | .cs _ | .dly _ => true | .rd _ _ | .out _ => false

/-! ## The transition table as a relation (spec/44_transaction.md R175) -/

/-- The successors the table gives a micro-state. -/
def successors : MicroState → List MicroState
  | .idle => [.ckSel, .txnInit, .scNext, .idle]
  | .ckSel => [.ckDiv]
  | .ckDiv => [.done]
  | .txnInit => [.stClr]
  | .stClr => [.stCon]
  | .stCon => [.stIen]
  | .stIen => [.stChk]
  | .stChk => [.stAck, .spClr, .stDly]
  | .stAck => [.txFifo]
  | .stDly => [.stChk]
  | .txFifo => [.txCon, .txFifo]
  | .txCon => [.txCnt]
  | .txCnt => [.txIen]
  | .txIen => [.txChk]
  | .txChk => [.txNak, .txAck, .spClr, .txDly]
  | .txNak => [.txAck, .spClr, .txDly]
  | .txAck => [.spClr, .txFifo]
  | .txDly => [.txChk]
  | .spClr => [.spCon]
  | .spCon => [.spIen]
  | .spIen => [.spChk]
  | .spChk => [.spAck, .dis, .spDly]
  | .spAck => [.dis]
  | .spDly => [.spChk]
  | .dis => [.ret]
  | .ret => [.done, .scDly]
  | .scNext => [.txnInit]
  | .scDly => [.done, .scNext]
  | .done => [.idle]

/-- The micro-states that may clear a flag (spec/60_exceptions.md R204). -/
def clearedIn : Flag → List MicroState
  | .start => [.stAck, .stClr, .spClr]
  | .stop => [.spAck, .stClr, .spClr]
  | .mbtf => [.txAck, .stClr, .spClr]
  | .nakrcv => [.txNak, .stClr, .spClr]

/-- The first micro-operation of an operation (spec/30_encoding.md R89); any other instruction is its own. -/
def firstMicroOp : Instr → Instr
  | .sendStart => .stClr
  | .pollStart => .stChk
  | .txChunk => .txFifo
  | .txWait => .txChk
  | .sendStop => .spClr
  | .pollStop => .spChk
  | .disable => .dis
  | i => i

/-- An answer followed by `k` steps of the machine. -/
def continueFor (k : Nat) (o : Answer) : Answer :=
  match o with
  | .next t => core.run k t
  | .fault r => .fault r
  | .refused r => .refused r

/-! ## Descriptors (spec/30_encoding.md R77, R93) -/

/-- `OP` of a header. -/
def opOf (h : Word) : BitVec 2 := h.extractLsb' 0 2

/-- `DEVADDR` of a header. -/
def devaddrOf (h : Word) : BitVec 7 := h.extractLsb' 2 7

/-- `H[31:9]`. -/
def reservedOf (h : Word) : BitVec 23 := h.extractLsb' 9 23

/-- The words a descriptor needs after its header (R77); format W without its two length words needs them both. -/
def wordsAfterHeader (op : BitVec 2) (rest : List Word) : Nat :=
  if op = 0#2 then 1
  else if op = 1#2 then
    match rest with
    | p :: l :: _ => 2 + ceilDiv p.toNat 4 + ceilDiv l.toNat 4
    | _ => 2
  else 0

/-- The malformed descriptors of R93, as that rule lists them. -/
def Malformed (c : Config) (h : Word) (rest : List Word) : Prop :=
  reservedOf h ≠ 0#23 ∨
  (devaddrOf h ≠ 0#7 ∧ (opOf h = 0#2 ∨ opOf h = 2#2)) ∨
  (opOf h = 1#2 ∧ ∃ p l buf, rest = p :: l :: buf ∧ 2 ^ 32 ≤ 1 + p.toNat + l.toNat) ∨
  rest.length < wordsAfterHeader (opOf h) rest ∨
  (opOf h = 0#2 ∧ ∃ hz more, rest = hz :: more ∧ (hz = 0#32 ∨ hz ≠ c.targetSclHz))

/-! ## Waits (spec/41_poll.md R112) -/

/-- The kinds of event a wait's pattern speaks of. -/
inductive EventKind where
  | check
  | delay
  | write
  | other
deriving DecidableEq, Repr

/-- The kind of an event. -/
def Event.kind : Event → EventKind
  | .rd _ _ => .check
  | .dly _ => .delay
  | .w _ _ => .write
  | .cs _ | .out _ => .other

/-- `check (delay check)^n` (R112). -/
def waitPattern : Nat → List EventKind
  | 0 => [.check]
  | n + 1 => .check :: .delay :: waitPattern n

/-- The event is a read in which flag `f` is seen set. -/
def Event.shows (y : Layout) (f : Flag) : Event → Bool
  | .rd _ v => hasFlag y v f
  | .w _ _ | .dly _ | .cs _ | .out _ => false

/-- A transmit wait's checks and delays with, directly after each check that shows a NACK, the clear of the NACK flag,
and no other write (spec/41_poll.md R116). -/
def withNackClears (y : Layout) (es : List Event) : List Event :=
  es.flatMap fun e => if e.shows y .nakrcv then [e, .w .ipd (y.mask .nakrcv)] else [e]

/-! ## The environment's coming moves -/

/-- The move the environment makes in the `k`-th turn from now, if nothing is settled anew. -/
def State.moveAt (s : State) (k : Nat) : EnvMove :=
  match s.env.drop k with
  | m :: _ => m
  | [] => Config.freeEnv (s.turn + k)

/-- No reset in the next `n` turns. -/
def NoResetWithin (n : Nat) (s : State) : Prop := ∀ k < n, (s.moveAt k).host ≠ .reset

/-- `Ctl` does not set flag `f` in turns `a` to `b - 1` from now. -/
def NotSetBetween (f : Flag) (a b : Nat) (s : State) : Prop := ∀ k, a ≤ k → k < b → (s.moveAt k).set.get f = false

/-- The `k + 1`-st check of a wait that starts now, and makes no other write, is the first to find flag `f` set: two
turns pass between one check and the next. -/
def SeenFirstAt (f : Flag) : Nat → State → Prop
  | 0, s => s.bank.ipd.get f = true
  | k + 1, s => s.bank.ipd.get f = false ∧ NotSetBetween f 0 (2 * k) s ∧
      ((s.moveAt (2 * k)).set.get f = true ∨ (s.moveAt (2 * k + 1)).set.get f = true)

/-! ## Assumptions a claim may take of the environment (spec/10_state.md R40) -/

/-- `EnvIenGated`: a flag is set only while its `IEN` bit is 1. -/
def EnvIenGated (s : State) : Prop :=
  ∀ f : Flag, s.envMove.set.get f = true → hasFlag s.cfg.layout s.bank.ien f = true

/-- `EnvQuietWhenOff`: no flag is set while `CON.EN = 0`. -/
def EnvQuietWhenOff (s : State) : Prop :=
  s.bank.con &&& bit s.cfg.layout.conEn = 0#32 → ∀ f : Flag, s.envMove.set.get f = false

/-- The host does not assert reset in the coming turn. -/
abbrev NoReset (s : State) : Prop := s.envMove.host ≠ .reset

end Sys2Proof.Machine
end

