-- ==== Sys2Proof/Certificates/Slice0/Obligations.lean ====
section
/-! DEFINITION. The statements for the provers, from the numbered rules of spec/. A result statement gives the WHOLE
next state as an update of the state before, so that it is the instruction's completion and its frame at once. -/

open Sys2Proof Sys2Proof.Machine

/-! ## Encodings -/

/-- Decoding an encoded well-formed instruction gives it back, with every operand at every value
(spec/30_encoding.md R72 to R77, R86, R89). -/
def Obligations.DecodeOfEncodeIsTheInstruction : Prop :=
  ∀ i : Instr, i.wellFormed = true → decode (encode i) = .ok i

/-- The codes of `upc`: 29 distinct ones, 0 to 28, in the table's order, and no others (spec/30_encoding.md R86, R94). -/
def Obligations.MicroStateCodesAreTheTable : Prop :=
  ([.idle, .ckSel, .ckDiv, .txnInit, .stClr, .stCon, .stIen, .stChk, .stAck, .stDly,
    .txFifo, .txCon, .txCnt, .txIen, .txChk, .txNak, .txAck, .txDly, .spClr, .spCon,
    .spIen, .spChk, .spAck, .spDly, .dis, .ret, .scNext, .scDly, .done] : List MicroState).map MicroState.code =
      (List.range 29).map (BitVec.ofNat 5) ∧
  (∀ m, MicroState.ofCode m.code = some m) ∧
  (∀ c m, MicroState.ofCode c = some m → m.code = c) ∧
  (∀ c, (MicroState.ofCode c).isSome = true ↔ c.toNat < 29)

/-- Words written out from the spec's encodings decode to their instructions (spec/95_test_vectors.md 2.7,
spec/30_encoding.md R86, R89). -/
def Obligations.WordsOfTheSpecDecode : Prop :=
  decode (.descriptor [0x00000000#32, 0x000186A0#32]) = .ok (.cfgclk 100000#32) ∧
  decode (.descriptor [0x00000141#32, 2#32, 5#32, 0x00003412#32, 0xEFBEADDE#32, 0x00000001#32]) =
    .ok (.wrtxn 0x50#7 [0x12#8, 0x34#8] [0xDE#8, 0xAD#8, 0xBE#8, 0xEF#8, 0x01#8]) ∧
  decode (.descriptor [0x00000002#32]) = .ok .scan ∧
  decode (.descriptor [0x00000003#32]) = .ok (.reservedOp3 0#30) ∧
  decode (.entry 0b00100#5) = .ok .sendStart ∧ decode (.entry 0b01110#5) = .ok .txWait ∧
  decode (.micro 0b01010#5) = .ok .txFifo ∧ decode (.micro 0b11100#5) = .ok .done

/-- A descriptor at the port of an idle block is refused exactly when its `OP` is 3 (R92) or it is malformed as R93
lists it (spec/30_encoding.md R77, R92, R93). That one with words to spare is accepted is the model's reading (R93 does
not list it; log entry 5, DEDUCED), and so is the refusal of a descriptor of no words (log entry 12, DEDUCED). -/
def Obligations.PortRefusesExactlyTheMalformed : Prop :=
  ∀ (s : State) (h : Word) (rest : List Word), s.isAt .idle →
    (s.port = some (h :: rest) →
      ((∃ r, runFetched s = .refused r) ↔ (opOf h = 3#2 ∨ Malformed s.cfg h rest)) ∧
      ((∃ t, runFetched s = .next t) ↔ ¬ (opOf h = 3#2 ∨ Malformed s.cfg h rest))) ∧
    (s.port = some [] → runFetched s = .refused (.malformed .tooShort))

/-- The reserved `OP = 3` stops on every path, as an instruction and as a header at the port of an idle block
(spec/30_encoding.md R92). -/
def Obligations.ReservedOpIsRefused : Prop :=
  (∀ (s : State) (rest : BitVec 30), exec (.reservedOp3 rest) s = .refused .reservedOp) ∧
  (∀ (s : State) (h : Word) (ws : List Word), s.isAt .idle → s.port = some (h :: ws) → opOf h = 3#2 →
    runFetched s = .refused .reservedOp)

/-! ## The step and the environment -/

/-- A step in which the environment does not reset is `exec` of what is fetched after its turn; while a command runs
that is the micro-operation of `upc`, and at `IDLE` the command at the port, or IDLE (spec/00_scope.md R14,
spec/10_state.md R24, spec/30_encoding.md R70). -/
def Obligations.StepRunsTheDecodedInstruction : Prop :=
  (∀ (s : State) (i : Instr), NoReset s → decode s.envTurn.fetch = .ok i → step s = exec i s.envTurn) ∧
  (∀ (s : State) (m : MicroState), s.isAt m → m ≠ .idle → NoReset s → step s = exec (Instr.ofMicro m) s.envTurn) ∧
  (∀ (s : State) (ws : List Word) (i : Instr), NoReset s → s.envTurn.isAt .idle → s.envTurn.port = some ws →
    decode (.descriptor ws) = .ok i → step s = exec i s.envTurn)

/-- While a command runs and no reset is asserted, the environment's turn changes nothing but the flags of `IPD`, which
it only sets, the other bits of the next `IPD` read, and the model's own record of turns (spec/10_state.md R26, R40). -/
def Obligations.EnvironmentOnlySetsFlagsDuringACommand : Prop :=
  ∀ s : State, ¬ s.isAt .idle → NoReset s →
    s.envTurn = { s with
      bank := { s.bank with ipd := s.envTurn.bank.ipd, ipdOther := s.envMove.other },
      env := s.env.tail, turn := s.turn + 1 } ∧
    ∀ f : Flag, s.envTurn.bank.ipd.get f = (s.bank.ipd.get f || s.envMove.set.get f)

/-- The reset input at any time: `upc` is `IDLE`, no sequencer register holds a value, `TRACE` is empty, and the bank
keeps what it held, but for flags `Ctl` set in the same turn (spec/70_reset_and_hazards.md R230, R232,
spec/92_eei_decisions.md D20). That R230 and not the bank's row of spec/10_state.md R45's table speaks of a reset of a
running block is the model's reading, log entry 14, DEDUCED; the turn is log entry 3. -/
def Obligations.ResetInputEmptiesTheSequencerOnly : Prop :=
  ∀ s : State, s.envMove.host = .reset → ∃ t, step s = .next t ∧
    t.isAt .idle ∧ t.seq = SeqRegs.noValues ∧ t.trace = [] ∧
    t.bank.con = s.bank.con ∧ t.bank.ien = s.bank.ien ∧ t.bank.clkdiv = s.bank.clkdiv ∧
    t.bank.mtxcnt = s.bank.mtxcnt ∧ t.bank.txdata = s.bank.txdata ∧
    ∀ f : Flag, t.bank.ipd.get f = (s.bank.ipd.get f || s.envMove.set.get f)

/-- The launch state over any instance and any bank, and `State.reset` as one of them (spec/10_state.md R45,
spec/70_reset_and_hazards.md R231). -/
def Obligations.LaunchStateHoldsNoValues : Prop :=
  (∀ (c : Config) (b : Bank), (State.launch c b).isAt .idle ∧ (State.launch c b).seq = SeqRegs.noValues ∧
    (State.launch c b).trace = [] ∧ (State.launch c b).bank = b ∧ (State.launch c b).port = none) ∧
  (∃ c b, State.reset = State.launch c b ∧ c.wf = true ∧ b.txdata.length = c.fifoWords)

/-! ## Commands -/

/-- Acceptance at `IDLE`: the operands and `CMD` are latched, `SCAN_ADDR` starts at 0x03, `upc` is the command's first
micro-state, no event is recorded and nothing else changes but the port, whose descriptor is taken
(spec/30_encoding.md R70, spec/10_state.md R20). -/
def Obligations.AcceptanceLatchesTheOperands : Prop :=
  (∀ s : State, s.isAt .idle → s.cfg.targetSclHz ≠ 0#32 →
    exec (.cfgclk s.cfg.targetSclHz) s = .next { s with
      upc := MicroState.code .ckSel, port := none,
      seq := { s.seq with cmd := some .cfgclk, hz := some s.cfg.targetSclHz } }) ∧
  (∀ (s : State) (a : BitVec 7) (r d : List Byte), s.isAt .idle → 1 + r.length + d.length < 2 ^ 32 →
    exec (.wrtxn a r d) s = .next { s with
      upc := MicroState.code .txnInit, port := none,
      seq := { s.seq with cmd := some .wrtxn, devaddr := some a, r := some r, d := some d,
                          p := some (BitVec.ofNat 32 r.length), l := some (BitVec.ofNat 32 d.length) } }) ∧
  (∀ s : State, s.isAt .idle →
    exec .scan s = .next { s with
      upc := MicroState.code .scNext, port := none,
      seq := { s.seq with cmd := some .scan, scanAddr := some 0x03#8 } })

/-- CFGCLK with `HZ = 0` or another frequency than the target is refused (spec/40_clock.md R106). -/
def Obligations.OtherFrequenciesAreRefused : Prop :=
  ∀ (s : State) (hz : Word), s.isAt .idle → (hz = 0#32 ∨ hz ≠ s.cfg.targetSclHz) →
    exec (.cfgclk hz) s = .refused (.unsupportedFrequency hz)

/-- A command presented while the block is busy is not taken: nothing happens (spec/10_state.md R26,
spec/93_implementation_defined.md U11). In the machine, a descriptor presented while busy does not reach the port, and one
presented at IDLE does (spec/30_encoding.md R70); a host's write of the bank at IDLE is the bank's store
(spec/70_reset_and_hazards.md R240). The turn's form, Ctl's half first, that a new descriptor replaces one at the port, and
that a host's write of `IPD` clears flags, are log entry 3. -/
def Obligations.CommandWhileBusyIsNotTaken : Prop :=
  (∀ (s : State) (hz : Word) (a : BitVec 7) (r d : List Byte), ¬ s.isAt .idle →
    exec (.cfgclk hz) s = .next s ∧ exec (.wrtxn a r d) s = .next s ∧ exec .scan s = .next s) ∧
  (∀ (s : State) (ws : List Word), ¬ s.isAt .idle → s.envMove.host = .present ws → s.envTurn.port = s.port) ∧
  (∀ (s : State) (ws : List Word), s.isAt .idle → s.envMove.host = .present ws →
    s.envTurn = { s with
      port := some ws,
      bank := { s.bank with ipd := s.bank.ipd.setBy s.envMove.set, ipdOther := s.envMove.other },
      env := s.env.tail, turn := s.turn + 1 }) ∧
  (∀ (s : State) (reg : Reg) (v : Word), s.isAt .idle → s.envMove.host = .poke reg v →
    s.envTurn = { s with
      bank := ({ s.bank with ipd := s.bank.ipd.setBy s.envMove.set, ipdOther := s.envMove.other } : Bank).store
        s.cfg.layout reg v,
      env := s.env.tail, turn := s.turn + 1 })

/-- IDLE: with no descriptor at the port the block stays as it is; with one, IDLE does what the command it decodes to
does (spec/44_transaction.md R175). -/
def Obligations.IdleTakesTheCommandAtThePort : Prop :=
  (∀ s : State, s.isAt .idle → s.port = none → exec .idle s = .next s) ∧
  (∀ (s : State) (ws : List Word) (i : Instr), s.isAt .idle → s.port = some ws →
    decode (.descriptor ws) = .ok i → exec .idle s = exec i s)

/-- CK_SEL and CK_DIV: the event of the clock-selection store and nothing else; then the one bank register `CLKDIV`,
with the pair of the instance's divisor at its two fields (spec/40_clock.md R100 to R103). -/
def Obligations.ClockConfiguratorStores : Prop :=
  ∀ (s : State) (hz : Word), s.seq.hz = some hz →
    exec .ckSel s = .next { s with
      upc := MicroState.code .ckDiv, trace := s.trace ++ [.cs (Config.clkSelValue s.cfg hz)] } ∧
    exec .ckDiv s = .next { s with
      upc := MicroState.code .done,
      bank := { s.bank with clkdiv :=
        s.cfg.layout.clkdivValue (s.cfg.divisor hz.toNat).1 (s.cfg.divisor hz.toNat).2 },
      trace := s.trace ++ [.w .clkdiv
        (s.cfg.layout.clkdivValue (s.cfg.divisor hz.toNat).1 (s.cfg.divisor hz.toNat).2)] }

/-- The default divisor: `divl + 1 + divh + 1 = T`, `T` the least total of at least 2 that does not exceed the target
frequency, the odd unit to the high phase (spec/40_clock.md R104). -/
def Obligations.DefaultDivisorIsTheLeastTotal : Prop :=
  ∀ ref hz : Nat, 0 < hz →
    let dv := clkDivDefault ref hz
    2 ≤ dv.1 + 1 + dv.2 + 1 ∧ ref ≤ 8 * (dv.1 + 1 + dv.2 + 1) * hz ∧
    (∀ t, 2 ≤ t → ref ≤ 8 * t * hz → dv.1 + 1 + dv.2 + 1 ≤ t) ∧
    (dv.2 = dv.1 ∨ dv.2 = dv.1 + 1)

/-- TXN_INIT: `ERR` is `None`, `BYTES_REM` is `1 + P + L`, `STREAM_OFF` is 0, no event, nothing else changes
(spec/44_transaction.md R162). -/
def Obligations.TxnInitStartsTheTransaction : Prop :=
  ∀ (s : State) (p l : Word), s.seq.p = some p → s.seq.l = some l → 1 + p.toNat + l.toNat < 2 ^ 32 →
    exec .txnInit s = .next { s with
      upc := MicroState.code .stClr,
      seq := { s.seq with err := some .noError, bytesRem := some (BitVec.ofNat 32 (1 + p.toNat + l.toNat)),
                          streamOff := some 0#32 } }

/-- RET: a WRTXN emits its result and goes to DONE, a SCAN reports the probed address and goes to SC_DLY; the request
latch and `ERR` then hold no value (spec/44_transaction.md R172, spec/45_scan.md R193, spec/10_state.md R28, R46; that
RET itself drops them is the model's reading, log entry 7). -/
def Obligations.RetReportsTheFirstError : Prop :=
  ∀ (s : State) (x : ErrLatch), s.seq.err = some x →
    (s.seq.cmd = some .wrtxn → exec .ret s = .next { s with
      upc := MicroState.code .done,
      seq := { s.seq with devaddr := none, p := none, l := none, r := none, d := none, err := none },
      trace := s.trace ++ [.out (.result (match x with
        | .noError => .ok | .error .noAck => .noAck | .error .timeout => .timeout))] }) ∧
    (∀ a, s.seq.cmd = some .scan → s.seq.devaddr = some a → exec .ret s = .next { s with
      upc := MicroState.code .scDly,
      seq := { s.seq with devaddr := none, p := none, l := none, r := none, d := none, err := none },
      trace := s.trace ++ [.out (.report a (if x = .noError then .present else .absent))] })

/-- DONE: every sequencer register but `upc` loses its value; the bank and `TRACE` keep theirs
(spec/44_transaction.md R173, R175). -/
def Obligations.DoneDropsEverySequencerValue : Prop :=
  ∀ s : State, exec .done s = .next { s with upc := MicroState.code .idle, seq := SeqRegs.noValues }

/-! ## Start, stop, disable -/

/-- `sendStart`'s three stores, in order: all four flags cleared, `CON = {EN, START}`, `IEN = {STARTIEN}` with the
budget loaded; each is one `W` event and changes nothing else (spec/42_startstop.md R125, spec/30_encoding.md R78, R79,
R81). -/
def Obligations.StartControllerStores : Prop :=
  ∀ s : State, s.cfg.layout.wf = true →
    exec .stClr s = .next { s with
      upc := MicroState.code .stCon,
      bank := { s.bank with ipd := { start := false, stop := false, mbtf := false, nakrcv := false } },
      trace := s.trace ++ [.w .ipd s.cfg.layout.ipdAll] } ∧
    exec .stCon s = .next { s with
      upc := MicroState.code .stIen, bank := { s.bank with con := bit s.cfg.layout.conEn ||| bit s.cfg.layout.conStart },
      trace := s.trace ++ [.w .con (bit s.cfg.layout.conEn ||| bit s.cfg.layout.conStart)] } ∧
    exec .stIen s = .next { s with
      upc := MicroState.code .stChk, bank := { s.bank with ien := bit s.cfg.layout.start },
      seq := { s.seq with countdown := some s.cfg.timeoutBudget },
      trace := s.trace ++ [.w .ien (bit s.cfg.layout.start)] }

/-- `sendStop`'s three stores, in order, symmetric to `sendStart`'s (spec/42_startstop.md R129). -/
def Obligations.StopControllerStores : Prop :=
  ∀ s : State, s.cfg.layout.wf = true →
    exec .spClr s = .next { s with
      upc := MicroState.code .spCon,
      bank := { s.bank with ipd := { start := false, stop := false, mbtf := false, nakrcv := false } },
      trace := s.trace ++ [.w .ipd s.cfg.layout.ipdAll] } ∧
    exec .spCon s = .next { s with
      upc := MicroState.code .spIen, bank := { s.bank with con := bit s.cfg.layout.conEn ||| bit s.cfg.layout.conStop },
      trace := s.trace ++ [.w .con (bit s.cfg.layout.conEn ||| bit s.cfg.layout.conStop)] } ∧
    exec .spIen s = .next { s with
      upc := MicroState.code .spChk, bank := { s.bank with ien := bit s.cfg.layout.stop },
      seq := { s.seq with countdown := some s.cfg.timeoutBudget },
      trace := s.trace ++ [.w .ien (bit s.cfg.layout.stop)] }

/-- `disable`, the operation and its one micro-operation: `CON` is zeroed and nothing else of the bank changes
(spec/42_startstop.md R132). -/
def Obligations.DisableZeroesConOnly : Prop :=
  ∀ s : State,
    exec .disable s = .next { s with
      upc := MicroState.code .ret, bank := { s.bank with con := 0#32 }, trace := s.trace ++ [.w .con 0#32] } ∧
    exec .dis s = .next { s with
      upc := MicroState.code .ret, bank := { s.bank with con := 0#32 }, trace := s.trace ++ [.w .con 0#32] }

/-- The register values of the default layout (spec/30_encoding.md R78 to R81, spec/40_clock.md R108). -/
def Obligations.DefaultLayoutValues : Prop :=
  let y : Layout := {}
  y.conStartValue = 0x00000009#32 ∧ y.conTxValue = 0x00000001#32 ∧ y.conStopValue = 0x00000011#32 ∧
  y.ienStartValue = 0x00000010#32 ∧ y.ienTxValue = 0x00000044#32 ∧ y.ienStopValue = 0x00000020#32 ∧
  y.mask .start = 0x00000010#32 ∧ y.mask .nakrcv = 0x00000040#32 ∧ y.mask .mbtf = 0x00000004#32 ∧
  y.mask .stop = 0x00000020#32 ∧
  y.clkdivValue (clkDivDefault 26000000 100000).1 (clkDivDefault 26000000 100000).2 = 0x0010000F#32

/-- A check of the start wait or the stop wait is one read of `IPD`, on which everything is decided: the flag set goes
to the clear, whatever the countdown; clear at countdown 0 records `Timeout` and leaves the wait; clear otherwise goes
to the delay. Nothing else changes (spec/41_poll.md R111, R122, spec/42_startstop.md R127, R131). -/
def Obligations.SingleFlagCheckDecides : Prop :=
  ∀ (s : State) (n : Word) (x : ErrLatch), s.cfg.layout.wf = true → s.seq.countdown = some n → s.seq.err = some x →
    exec .stChk s = .next { s with
      upc := if s.bank.ipd.start = true then MicroState.code .stAck
        else if n = 0#32 then MicroState.code .spClr else MicroState.code .stDly,
      seq := { s.seq with
        sample := some s.ipdWord,
        err := if s.bank.ipd.start = false ∧ n = 0#32 then some (x.record .timeout) else some x },
      trace := s.trace ++ [.rd .ipd s.ipdWord] } ∧
    exec .spChk s = .next { s with
      upc := if s.bank.ipd.stop = true then MicroState.code .spAck
        else if n = 0#32 then MicroState.code .dis else MicroState.code .spDly,
      seq := { s.seq with
        sample := some s.ipdWord,
        err := if s.bank.ipd.stop = false ∧ n = 0#32 then some (x.record .timeout) else some x },
      trace := s.trace ++ [.rd .ipd s.ipdWord] }

/-- An `IPD` read shows each of the four flags at its position, and whatever `Ctl` drives at every other position
(spec/20_memory.md R52, spec/30_encoding.md R80, R95). -/
def Obligations.IpdReadShowsTheFlags : Prop :=
  ∀ s : State, s.cfg.layout.wf = true →
    (∀ f : Flag, hasFlag s.cfg.layout s.ipdWord f = s.bank.ipd.get f) ∧
    (∀ n < 32, (∀ f : Flag, n ≠ s.cfg.layout.pos f) → s.ipdWord.getLsbD n = s.bank.ipdOther.getLsbD n)

/-- Write-one-to-clear: a store to `IPD` clears exactly the flags whose bit is 1 in the word and changes no other
register (spec/10_state.md R37, spec/20_memory.md R51). -/
def Obligations.IpdStoreClearsExactlyTheOnes : Prop :=
  ∀ (b : Bank) (y : Layout) (v : Word),
    (∀ f : Flag, (b.store y .ipd v).ipd.get f = (b.ipd.get f && !v.getLsbD (y.pos f))) ∧
    b.store y .ipd v = { b with ipd := (b.store y .ipd v).ipd }

/-- The clears after a successful check: exactly the flag that was seen. ST_ACK also sets up the first chunk
(spec/41_poll.md R114, spec/43_packer.md R143, spec/44_transaction.md R175). -/
def Obligations.AcknowledgeClearsTheSeenFlag : Prop :=
  ∀ s : State, s.cfg.layout.wf = true →
    (∀ rem : Word, s.seq.bytesRem = some rem →
      exec .stAck s = .next { s with
        upc := MicroState.code .txFifo, bank := { s.bank with ipd := { s.bank.ipd with start := false } },
        seq := { s.seq with
          chunkSize := some (BitVec.ofNat 32 (min rem.toNat s.cfg.fifoDepthBytes)),
          wordCnt := some (BitVec.ofNat 32 (ceilDiv (min rem.toNat s.cfg.fifoDepthBytes) 4)),
          wordIdx := some 0#32 },
        trace := s.trace ++ [.w .ipd (bit s.cfg.layout.start)] }) ∧
    exec .spAck s = .next { s with
      upc := MicroState.code .dis, bank := { s.bank with ipd := { s.bank.ipd with stop := false } },
      trace := s.trace ++ [.w .ipd (bit s.cfg.layout.stop)] }

/-- The three delays of a poll: one `Dly(1)` event, the countdown one less, back to the check; nothing else changes
(spec/41_poll.md R111, R116, R118). -/
def Obligations.QuantumDelaysAndCountsDown : Prop :=
  ∀ (s : State) (n : Word), s.seq.countdown = some n → n ≠ 0#32 →
    exec .stDly s = .next { s with
      upc := MicroState.code .stChk, seq := { s.seq with countdown := some (BitVec.ofNat 32 (n.toNat - 1)) },
      trace := s.trace ++ [.dly 1] } ∧
    exec .txDly s = .next { s with
      upc := MicroState.code .txChk, seq := { s.seq with countdown := some (BitVec.ofNat 32 (n.toNat - 1)) },
      trace := s.trace ++ [.dly 1] } ∧
    exec .spDly s = .next { s with
      upc := MicroState.code .spChk, seq := { s.seq with countdown := some (BitVec.ofNat 32 (n.toNat - 1)) },
      trace := s.trace ++ [.dly 1] }

/-! ## Transmit -/

/-- TX_FIFO: `TXDATA[WORD_IDX]` gets `Word(WORD_IDX)`, every other `TXDATA` keeps its value, `WORD_IDX` is one more,
and after the last word control passes to TX_CON (spec/43_packer.md R147, R148). -/
def Obligations.FifoLoadStoresOneWord : Prop :=
  ∀ (s : State) (i cnt p l off size w : Word) (a : BitVec 7) (r d : List Byte),
    s.seq.wordIdx = some i → s.seq.wordCnt = some cnt → s.seq.devaddr = some a → s.seq.p = some p →
    s.seq.l = some l → s.seq.r = some r → s.seq.d = some d → s.seq.streamOff = some off →
    s.seq.chunkSize = some size → i.toNat < s.cfg.fifoWords →
    fifoWord (streamByte a p.toNat l.toNat r d) off.toNat size.toNat i.toNat = some w →
    exec .txFifo s = .next { s with
      upc := if i + 1#32 = cnt then MicroState.code .txCon else MicroState.code .txFifo,
      bank := { s.bank with txdata := s.bank.txdata.set i.toNat w },
      seq := { s.seq with wordIdx := some (i + 1#32) },
      trace := s.trace ++ [.w (.txdata i.toNat) w] }

/-- The trigger's three stores: `CON = {EN, MODE_TX}`, `MTXCNT = CHUNK_SIZE`, `IEN = {MBTFIEN, NAKRCVIEN}` with a fresh
budget (spec/44_transaction.md R166, spec/30_encoding.md R83). -/
def Obligations.TriggerStores : Prop :=
  ∀ s : State,
    exec .txCon s = .next { s with
      upc := MicroState.code .txCnt,
      bank := { s.bank with con := bit s.cfg.layout.conEn ||| (s.cfg.layout.modeTx.setWidth 32 <<< s.cfg.layout.conMode) },
      trace := s.trace ++
        [.w .con (bit s.cfg.layout.conEn ||| (s.cfg.layout.modeTx.setWidth 32 <<< s.cfg.layout.conMode))] } ∧
    (∀ size : Word, s.seq.chunkSize = some size →
      exec .txCnt s = .next { s with
        upc := MicroState.code .txIen, bank := { s.bank with mtxcnt := size },
        trace := s.trace ++ [.w .mtxcnt size] }) ∧
    exec .txIen s = .next { s with
      upc := MicroState.code .txChk, bank := { s.bank with ien := bit s.cfg.layout.mbtf ||| bit s.cfg.layout.nakrcv },
      seq := { s.seq with countdown := some s.cfg.timeoutBudget },
      trace := s.trace ++ [.w .ien (bit s.cfg.layout.mbtf ||| bit s.cfg.layout.nakrcv)] }

/-- A check of the transmit wait: NACK is examined before completion, both before the countdown, on one sample
(spec/41_poll.md R116, R117, spec/60_exceptions.md R207). -/
def Obligations.TransmitCheckDecides : Prop :=
  ∀ (s : State) (n : Word) (x : ErrLatch), s.cfg.layout.wf = true → s.seq.countdown = some n → s.seq.err = some x →
    exec .txChk s = .next { s with
      upc := if s.bank.ipd.nakrcv = true then MicroState.code .txNak
        else if s.bank.ipd.mbtf = true then MicroState.code .txAck
        else if n = 0#32 then MicroState.code .spClr else MicroState.code .txDly,
      seq := { s.seq with
        sample := some s.ipdWord,
        err := if s.bank.ipd.nakrcv = false ∧ s.bank.ipd.mbtf = false ∧ n = 0#32 then some (x.record .timeout)
          else some x },
      trace := s.trace ++ [.rd .ipd s.ipdWord] }

/-- TX_NAK: exactly the NACK flag is cleared, `NoAck` is recorded unless an error was, and the wait falls through on the
same sample (spec/41_poll.md R116, spec/60_exceptions.md R200). -/
def Obligations.NackIsRecordedAndTheWaitGoesOn : Prop :=
  ∀ (s : State) (v n : Word) (x : ErrLatch), s.cfg.layout.wf = true → s.seq.sample = some v →
    s.seq.countdown = some n → s.seq.err = some x →
    exec .txNak s = .next { s with
      upc := if v.getLsbD s.cfg.layout.mbtf = true then MicroState.code .txAck
        else if n = 0#32 then MicroState.code .spClr else MicroState.code .txDly,
      bank := { s.bank with ipd := { s.bank.ipd with nakrcv := false } },
      seq := { s.seq with err := some (if x = .noError then .error .noAck else x) },
      trace := s.trace ++ [.w .ipd (bit s.cfg.layout.nakrcv)] }

/-- TX_ACK: exactly the completion flag is cleared; with an error recorded no further chunk is sent; with none,
`BYTES_REM` and `STREAM_OFF` advance by the chunk, and the next chunk is set up if bytes are left
(spec/44_transaction.md R168, R169, R175). -/
def Obligations.CompletionAdvancesOrUnwinds : Prop :=
  ∀ s : State, s.cfg.layout.wf = true →
    (∀ e : ErrKind, s.seq.err = some (.error e) →
      exec .txAck s = .next { s with
        upc := MicroState.code .spClr, bank := { s.bank with ipd := { s.bank.ipd with mbtf := false } },
        trace := s.trace ++ [.w .ipd (bit s.cfg.layout.mbtf)] }) ∧
    (∀ rem off size : Word, s.seq.err = some .noError → s.seq.bytesRem = some rem → s.seq.streamOff = some off →
      s.seq.chunkSize = some size → size ≤ rem → off.toNat + size.toNat < 2 ^ 32 →
      exec .txAck s = .next { s with
        upc := if size = rem then MicroState.code .spClr else MicroState.code .txFifo,
        bank := { s.bank with ipd := { s.bank.ipd with mbtf := false } },
        seq := if size = rem then { s.seq with
            bytesRem := some 0#32, streamOff := some (BitVec.ofNat 32 (off.toNat + size.toNat)) }
          else { s.seq with
            bytesRem := some (BitVec.ofNat 32 (rem.toNat - size.toNat)),
            streamOff := some (BitVec.ofNat 32 (off.toNat + size.toNat)),
            chunkSize := some (BitVec.ofNat 32 (min (rem.toNat - size.toNat) s.cfg.fifoDepthBytes)),
            wordCnt := some (BitVec.ofNat 32 (ceilDiv (min (rem.toNat - size.toNat) s.cfg.fifoDepthBytes) 4)),
            wordIdx := some 0#32 },
        trace := s.trace ++ [.w .ipd (bit s.cfg.layout.mbtf)] })

/-! ## Scan -/

/-- SC_NEXT loads the probe of `SCAN_ADDR`: its low seven bits, one prefix byte 0x00, no payload; no event
(spec/45_scan.md R191). SC_DLY delays 10 microseconds and goes to the next address, or to DONE after 0x77
(spec/45_scan.md R192, R194). -/
def Obligations.ScanProbesAndAdvances : Prop :=
  ∀ (s : State) (a : BitVec 8), s.seq.scanAddr = some a →
    exec .scNext s = .next { s with
      upc := MicroState.code .txnInit,
      seq := { s.seq with devaddr := some (a.setWidth 7), p := some 1#32, l := some 0#32,
                          r := some [0x00#8], d := some [] } } ∧
    (a ≤ 0x77#8 → exec .scDly s = .next { s with
      upc := if a = 0x77#8 then MicroState.code .done else MicroState.code .scNext,
      seq := { s.seq with scanAddr := some (BitVec.ofNat 8 (a.toNat + 1)) },
      trace := s.trace ++ [.dly 10] })

/-! ## Operations -/

/-- The single-flag poll of the start wait, and of the stop wait, completes, with no reset meanwhile: either it returns
`Acknowledged`, the flag seen and cleared, or `TimedOut`, the budget run out and no clear issued. Of the bank only `IPD`
changes; of the sequencer registers only those named (spec/41_poll.md R111, R114, R115, R120). The poll of R111 leaves
`ERR` to its caller: `Timeout` is recorded in the check's own micro-step by spec/42_startstop.md R127, R131 and
spec/44_transaction.md R175, and the chunk set up in the clear's by R175 and spec/43_packer.md R143; that the operation's
meaning holds its micro-steps whole is the model's choice, log entry 10. -/
def Obligations.PollEndsAcknowledgedOrTimedOut : Prop :=
  ∀ (s : State) (n : Word) (x : ErrLatch), s.seq.countdown = some n → s.seq.err = some x →
    NoResetWithin (2 * n.toNat + 2) s →
    (∀ rem : Word, s.seq.bytesRem = some rem → ∃ t, exec .pollStart s = .next t ∧
      t.bank = { s.bank with ipd := t.bank.ipd, ipdOther := t.bank.ipdOther } ∧
      t.cfg = s.cfg ∧ t.port = s.port ∧ s.trace <+: t.trace ∧
      ((pollStartResult s = some .acknowledged ∧ t.isAt .txFifo ∧
          t.trace.getLast? = some (.w .ipd (bit s.cfg.layout.start)) ∧
          t.seq = { (t.chunkSetup rem).seq with
            cmd := s.seq.cmd, devaddr := s.seq.devaddr, p := s.seq.p, l := s.seq.l, r := s.seq.r, d := s.seq.d,
            bytesRem := s.seq.bytesRem, streamOff := s.seq.streamOff, err := s.seq.err,
            scanAddr := s.seq.scanAddr, hz := s.seq.hz }) ∨
        (pollStartResult s = some .timedOut ∧ t.isAt .spClr ∧ (∃ v, t.trace.getLast? = some (.rd .ipd v)) ∧
          t.seq = { s.seq with
            countdown := some 0#32, sample := t.seq.sample, err := some (x.record .timeout) }))) ∧
    (∃ t, exec .pollStop s = .next t ∧
      t.bank = { s.bank with ipd := t.bank.ipd, ipdOther := t.bank.ipdOther } ∧
      t.cfg = s.cfg ∧ t.port = s.port ∧ s.trace <+: t.trace ∧ t.isAt .dis ∧
      ((pollStopResult s = some .acknowledged ∧ t.trace.getLast? = some (.w .ipd (bit s.cfg.layout.stop)) ∧
          t.seq = { s.seq with countdown := t.seq.countdown, sample := t.seq.sample }) ∨
        (pollStopResult s = some .timedOut ∧ (∃ v, t.trace.getLast? = some (.rd .ipd v)) ∧
          t.seq = { s.seq with
            countdown := some 0#32, sample := t.seq.sample, err := some (x.record .timeout) })))

/-- A wait whose flag is never set returns `TimedOut` after exactly `n + 1` checks and `n` delays from a countdown of
`n`, in the pattern check (delay check)^n: the start wait and the stop wait with no write, the transmit wait with one
clear of the NACK flag directly after each check that shows a NACK and no other write (spec/41_poll.md R112, R115, R116,
R117). What is recorded is the
caller's (spec/42_startstop.md R127, R131; log entry 10), in the transmit wait the wait's own (R116). -/
def Obligations.TimedOutWaitHasOneMoreCheckThanDelays : Prop :=
  ∀ (s : State) (n : Word) (x : ErrLatch), s.cfg.layout.wf = true → s.seq.countdown = some n → s.seq.err = some x →
    (s.bank.ipd.start = false → NoResetWithin (2 * n.toNat) s → NotSetBetween .start 0 (2 * n.toNat) s →
      pollStartResult s = some .timedOut ∧
      ∃ t es, exec .pollStart s = .next t ∧ t.isAt .spClr ∧ t.seq.countdown = some 0#32 ∧
        t.seq.err = some (x.record .timeout) ∧ t.trace = s.trace ++ es ∧ es.map Event.kind = waitPattern n.toNat) ∧
    (s.bank.ipd.stop = false → NoResetWithin (2 * n.toNat) s → NotSetBetween .stop 0 (2 * n.toNat) s →
      pollStopResult s = some .timedOut ∧
      ∃ t es, exec .pollStop s = .next t ∧ t.isAt .dis ∧ t.seq.countdown = some 0#32 ∧
        t.seq.err = some (x.record .timeout) ∧ t.trace = s.trace ++ es ∧ es.map Event.kind = waitPattern n.toNat) ∧
    (s.bank.ipd.mbtf = false → NoResetWithin (3 * n.toNat + 1) s → NotSetBetween .mbtf 0 (3 * n.toNat + 1) s →
      txWaitResult s = some .timedOut ∧
      ∃ t es, exec .txWait s = .next t ∧ t.isAt .spClr ∧ t.seq.countdown = some 0#32 ∧
        es.map Event.kind = waitPattern n.toNat ∧ t.trace = s.trace ++ withNackClears s.cfg.layout es ∧
        t.seq.err = some (x.record (if es.any (Event.shows s.cfg.layout .nakrcv) then .noAck else .timeout)))

/-- A wait that finds its flag first at the `k + 1`-st check, from the first to the last one at countdown 0, returns
`Acknowledged` after `k` delays and one clear, and records no error: the start wait, the stop wait, and the transmit
wait of a chunk in which no NACK is seen (spec/41_poll.md R112, R117, R121, R122, R123). -/
def Obligations.FlagSeenAtTheLastCheckIsAcknowledged : Prop :=
  ∀ (s : State) (n : Word) (x : ErrLatch) (k : Nat), s.cfg.layout.wf = true →
    s.seq.countdown = some n → s.seq.err = some x → k ≤ n.toNat → NoResetWithin (2 * k + 1) s →
    (∀ rem : Word, s.seq.bytesRem = some rem → SeenFirstAt .start k s →
      pollStartResult s = some .acknowledged ∧
      ∃ t es, exec .pollStart s = .next t ∧ t.isAt .txFifo ∧
        t.seq.countdown = some (BitVec.ofNat 32 (n.toNat - k)) ∧ t.seq.err = some x ∧
        t.trace = s.trace ++ es ∧ es.map Event.kind = waitPattern k ++ [.write]) ∧
    (SeenFirstAt .stop k s →
      pollStopResult s = some .acknowledged ∧
      ∃ t es, exec .pollStop s = .next t ∧ t.isAt .dis ∧
        t.seq.countdown = some (BitVec.ofNat 32 (n.toNat - k)) ∧ t.seq.err = some x ∧
        t.trace = s.trace ++ es ∧ es.map Event.kind = waitPattern k ++ [.write]) ∧
    (∀ rem off size : Word, s.seq.bytesRem = some rem → s.seq.streamOff = some off → s.seq.chunkSize = some size →
      SeenFirstAt .mbtf k s → s.bank.ipd.nakrcv = false → NotSetBetween .nakrcv 0 (2 * k) s →
      txWaitResult s = some .acknowledged ∧
      ∃ t es, exec .txWait s = .next t ∧ t.within [.txFifo, .spClr] ∧
        t.seq.countdown = some (BitVec.ofNat 32 (n.toNat - k)) ∧ t.seq.err = some x ∧
        t.trace = s.trace ++ es ∧ es.map Event.kind = waitPattern k ++ [.write])

/-- `sendStart` completes, with no reset meanwhile: `CON = {EN, START}` and `IEN = {STARTIEN}`, and either it
returns `Acknowledged`, a chunk set up and the error latch untouched, or `TimedOut`, and `Timeout` is recorded. `CLKDIV`, `MTXCNT` and `TXDATA`
are untouched (spec/42_startstop.md R125, R127, R128, spec/44_transaction.md R163). -/
def Obligations.SendStartCompletes : Prop :=
  ∀ (s : State) (rem : Word) (x : ErrLatch), s.seq.err = some x → s.seq.bytesRem = some rem →
    NoResetWithin (2 * s.cfg.timeoutBudget.toNat + 5) s →
    ∃ t, exec .sendStart s = .next t ∧
      t.bank = { s.bank with con := s.cfg.layout.conStartValue, ien := s.cfg.layout.ienStartValue,
                             ipd := t.bank.ipd, ipdOther := t.bank.ipdOther } ∧
      t.cfg = s.cfg ∧ t.port = s.port ∧
      (s.trace ++ [.w .ipd s.cfg.layout.ipdAll, .w .con s.cfg.layout.conStartValue,
        .w .ien s.cfg.layout.ienStartValue]) <+: t.trace ∧
      ((sendStartResult s = some .acknowledged ∧ t.isAt .txFifo ∧ t.seq = { (t.chunkSetup rem).seq with
            cmd := s.seq.cmd, devaddr := s.seq.devaddr, p := s.seq.p, l := s.seq.l, r := s.seq.r, d := s.seq.d,
            bytesRem := s.seq.bytesRem, streamOff := s.seq.streamOff, err := s.seq.err,
            scanAddr := s.seq.scanAddr, hz := s.seq.hz }) ∨
        (sendStartResult s = some .timedOut ∧ t.isAt .spClr ∧ t.seq = { s.seq with
            countdown := some 0#32, sample := t.seq.sample, err := some (x.record .timeout) }))

/-- `sendStop` completes, with no reset meanwhile, in DIS: `CON = {EN, STOP}` and `IEN = {STOPIEN}`; a timeout is
recorded only if nothing was before it (spec/42_startstop.md R129, R131). -/
def Obligations.SendStopCompletes : Prop :=
  ∀ (s : State) (x : ErrLatch), s.seq.err = some x → NoResetWithin (2 * s.cfg.timeoutBudget.toNat + 5) s →
    ∃ t, exec .sendStop s = .next t ∧ t.isAt .dis ∧
      t.bank = { s.bank with con := s.cfg.layout.conStopValue, ien := s.cfg.layout.ienStopValue,
                             ipd := t.bank.ipd, ipdOther := t.bank.ipdOther } ∧
      t.cfg = s.cfg ∧ t.port = s.port ∧
      (s.trace ++ [.w .ipd s.cfg.layout.ipdAll, .w .con s.cfg.layout.conStopValue,
        .w .ien s.cfg.layout.ienStopValue]) <+: t.trace ∧
      t.seq = { s.seq with countdown := t.seq.countdown, sample := t.seq.sample, err := t.seq.err } ∧
      ((sendStopResult s = some .acknowledged ∧ t.seq.err = some x) ∨
        (sendStopResult s = some .timedOut ∧ t.seq.err = some (x.record .timeout)))

/-- `txChunk` completes, with no reset meanwhile, in TX_CHK: the words from `WORD_IDX` up to `WORD_CNT` are in `TXDATA`,
the others keep their values, and the trigger's three registers are written (spec/43_packer.md R147, R148,
spec/44_transaction.md R166). -/
def Obligations.TxChunkLoadsEveryWordAndTriggers : Prop :=
  ∀ (s : State) (i cnt p l off size : Word) (a : BitVec 7) (r d : List Byte),
    s.seq.wordIdx = some i → s.seq.wordCnt = some cnt → s.seq.devaddr = some a → s.seq.p = some p →
    s.seq.l = some l → s.seq.r = some r → s.seq.d = some d → s.seq.streamOff = some off →
    s.seq.chunkSize = some size → r.length = p.toNat → d.length = l.toNat →
    off.toNat + size.toNat ≤ 1 + p.toNat + l.toNat → i < cnt → cnt.toNat ≤ s.cfg.fifoWords →
    s.bank.txdata.length = s.cfg.fifoWords → NoResetWithin (cnt.toNat - i.toNat + 2) s →
    ∃ t, exec .txChunk s = .next t ∧ t.isAt .txChk ∧
      t.bank = { s.bank with con := s.cfg.layout.conTxValue, ien := s.cfg.layout.ienTxValue, mtxcnt := size,
                             txdata := t.bank.txdata, ipd := t.bank.ipd, ipdOther := t.bank.ipdOther } ∧
      (∀ k, i.toNat ≤ k → k < cnt.toNat →
        t.bank.txdata[k]? = fifoWord (streamByte a p.toNat l.toNat r d) off.toNat size.toNat k) ∧
      (∀ k, (k < i.toNat ∨ cnt.toNat ≤ k) → t.bank.txdata[k]? = s.bank.txdata[k]?) ∧
      t.seq = { s.seq with wordIdx := some cnt, countdown := some s.cfg.timeoutBudget } ∧
      t.cfg = s.cfg ∧ t.port = s.port ∧ s.trace <+: t.trace

/-- `txWait` completes, with no reset meanwhile: it ends in TX_FIFO only with no error and bytes left, having advanced
by the chunk; else in SP_CLR, either with the stream done and no error, or with an error recorded, the first one kept.
Of the bank only `IPD` changes (spec/41_poll.md R116, R117, spec/44_transaction.md R167 to R169). -/
def Obligations.TxWaitAdvancesOrRecordsTheFirstError : Prop :=
  ∀ (s : State) (n rem off size : Word) (x : ErrLatch), s.seq.countdown = some n → s.seq.err = some x →
    s.seq.bytesRem = some rem → s.seq.streamOff = some off → s.seq.chunkSize = some size →
    NoResetWithin (3 * n.toNat + 3) s →
    ∃ t, exec .txWait s = .next t ∧
      t.bank = { s.bank with ipd := t.bank.ipd, ipdOther := t.bank.ipdOther } ∧
      t.cfg = s.cfg ∧ t.port = s.port ∧ s.trace <+: t.trace ∧
      ((txWaitResult s = some .acknowledged ∧ t.isAt .txFifo ∧ x = .noError ∧ rem - size ≠ 0#32 ∧
          t.seq = { (t.chunkSetup (rem - size)).seq with
            cmd := s.seq.cmd, devaddr := s.seq.devaddr, p := s.seq.p, l := s.seq.l, r := s.seq.r, d := s.seq.d,
            bytesRem := some (rem - size), streamOff := some (off + size), err := some .noError,
            scanAddr := s.seq.scanAddr, hz := s.seq.hz }) ∨
        (txWaitResult s = some .acknowledged ∧ t.isAt .spClr ∧ x = .noError ∧ rem - size = 0#32 ∧
          t.seq = { s.seq with
            bytesRem := some 0#32, streamOff := some (off + size),
            countdown := t.seq.countdown, sample := t.seq.sample }) ∨
        ((txWaitResult s = some .acknowledged ∨ (txWaitResult s = some .timedOut ∧ t.seq.countdown = some 0#32)) ∧
          t.isAt .spClr ∧ ∃ e, t.seq.err = some (x.record e) ∧
          t.seq = { s.seq with err := t.seq.err, countdown := t.seq.countdown, sample := t.seq.sample }))

/-- Every operation is what its first micro-operation and some number of further steps of the machine do, from every
state and in every environment: the source's named sub-sequences are groups of micro-operations and nothing besides
(spec/30_encoding.md R89, spec/00_scope.md R13, R14). That an operation means its whole sub-sequence is the model's choice,
log entry 10; where each one ends is said by the completion statements before this one. -/
def Obligations.OperationsAreRunsOfMicroOperations : Prop :=
  ∀ (i : Instr) (s : State), i ∈ [Instr.sendStart, .pollStart, .txChunk, .txWait, .sendStop, .pollStop, .disable] →
    ∃ k, exec i s = continueFor k (exec (firstMicroOp i) s)

/-! ## The packer -/

/-- The logical stream is the address byte, the prefix bytes and the payload bytes, in that order, and no index in
`0 .. TOTAL-1` reads outside a buffer (spec/43_packer.md R141, R142). -/
def Obligations.StreamIsAddressPrefixPayload : Prop :=
  ∀ (a : BitVec 7) (r d : List Byte) (k : Nat),
    streamByte a r.length d.length r d k = (addressByte a :: (r ++ d))[k]?

/-- `Word(i)` of a chunk inside the stream exists and is little-endian: lane `j` is the stream byte at chunk position
`4 * i + j`, and 0x00 past the chunk (spec/43_packer.md R145, R146). -/
def Obligations.WordLanesAreStreamBytes : Prop :=
  ∀ (a : BitVec 7) (r d : List Byte) (off chunk i : Nat), off + chunk ≤ 1 + r.length + d.length →
    ∃ w, fifoWord (streamByte a r.length d.length r d) off chunk i = some w ∧
      ∀ j < 4, some (w.extractLsb' (8 * j) 8) =
        if 4 * i + j < chunk then streamByte a r.length d.length r d (off + (4 * i + j)) else some 0x00#8

/-- The first byte placed into word 0 of the first chunk is the address shifted left with the low bit clear, in every
state that is about to load it (spec/43_packer.md R153, spec/30_encoding.md R85). -/
def Obligations.FirstByteIsTheAddress : Prop :=
  ∀ (s t : State) (a : BitVec 7), s.Inv → s.isAt .txFifo → s.seq.wordIdx = some 0#32 → s.seq.streamOff = some 0#32 →
    s.seq.devaddr = some a → exec .txFifo s = .next t →
    ∃ w, t.bank.txdata[0]? = some w ∧ (w.extractLsb' 0 8).toNat = 2 * a.toNat ∧ w.getLsbD 0 = false

/-- A zero-length payload with one prefix byte is a single chunk of size 2, one word, `{0x00, 0x00, R[0], S[0]}`
(spec/43_packer.md R154). -/
def Obligations.ProbeIsOneChunkOfTwoBytes : Prop :=
  ∀ (a : BitVec 7) (x : Byte) (depth : Nat), 4 ≤ depth →
    totalBytes 1#32 0#32 = 2#32 ∧ chunkSizeOf depth 2#32 = 2#32 ∧ wordCountOf 2#32 = 1#32 ∧
    fifoWord (streamByte a 1 0 [x] []) 0 2 0 = some (0x00#8 ++ 0x00#8 ++ x ++ (a ++ 0#1))

/-- The chunk in progress is number `STREAM_OFF div FIFO_DEPTH_BYTES`; when it completes without error the transaction
leaves Sending exactly if it is number `ceil(TOTAL / FIFO_DEPTH_BYTES) - 1`, and then the chunk sizes sum to `TOTAL`;
else the next chunk has the next number (spec/43_packer.md R144, R152, spec/44_transaction.md R170). -/
def Obligations.ChunkCountIsTheCeiling : Prop :=
  ∀ (s t : State) (off size : Word), s.Inv → s.isAt .txAck → NoReset s → s.seq.err = some .noError →
    s.seq.streamOff = some off → s.seq.chunkSize = some size → step s = .next t →
    size.toNat = min (s.seq.total - off.toNat) s.cfg.fifoDepthBytes ∧
    (if off.toNat / s.cfg.fifoDepthBytes + 1 = ceilDiv s.seq.total s.cfg.fifoDepthBytes
      then t.isAt .spClr ∧ off.toNat + size.toNat = s.seq.total
      else t.isAt .txFifo ∧
        (t.seq.streamOff.getD 0#32).toNat / s.cfg.fifoDepthBytes = off.toNat / s.cfg.fifoDepthBytes + 1)

/-! ## The whole machine -/

/-- `record(e)` writes the latch if and only if no error is recorded, and nothing else (spec/60_exceptions.md R201). -/
def Obligations.RecordKeepsTheFirstError : Prop :=
  ∀ (s : State) (x : ErrLatch) (e : ErrKind), s.seq.err = some x →
    s.record x e = if x = .noError then { s with seq := { s.seq with err := some (.error e) } } else s

/-- The invariant holds in every launch state of an allowed instance, whatever the bank, and at reset. -/
def Obligations.InvariantHoldsAtLaunch : Prop :=
  (∀ (c : Config) (b : Bank) (s : State), instantiate c b = some s → s.Inv) ∧ State.reset.Inv

/-- Every step keeps the invariant, whatever the environment does. -/
def Obligations.InvariantIsKeptByEveryStep : Prop :=
  ∀ s t : State, s.Inv → step s = .next t → t.Inv

/-- No register is read before it is written, no code is unused, no register or request index is out of range: under
the invariant no step faults (spec/10_state.md R46, spec/30_encoding.md R94, spec/60_exceptions.md R203). -/
def Obligations.NoFaultIsReachable : Prop :=
  ∀ (s : State) (r : Fault), s.Inv → step s ≠ .fault r

/-- While a command runs a step is never refused: only a descriptor at the port of an idle block can be
(spec/60_exceptions.md R203). -/
def Obligations.OnlyTheCommandPortRefuses : Prop :=
  ∀ (s : State) (r : Refusal), step s = .refused r → s.isAt .idle

/-- Every command terminates, whatever the environment does: from every state of a run that is not at `IDLE` the machine
comes to `IDLE` (spec/41_poll.md R120, spec/44_transaction.md R177). -/
def Obligations.EveryCommandComesToIdle : Prop :=
  ∀ s : State, s.Inv → ∃ k t, core.run k s = .next t ∧ t.isAt .idle

/-- The successor of a micro-state is one the transition table gives it, unless reset is asserted
(spec/44_transaction.md R175, R177). -/
def Obligations.SuccessorsAreTheTables : Prop :=
  ∀ (m : MicroState) (s t : State), s.isAt m → NoReset s → step s = .next t → t.within (successors m)

/-- While a command runs, each step records exactly one event, except at TXN_INIT, SC_NEXT and DONE, which record none;
no event is ever taken back (spec/00_scope.md R14, spec/10_state.md R25). -/
def Obligations.OneEventPerMicroStep : Prop :=
  ∀ s t : State, ¬ s.isAt .idle → NoReset s → step s = .next t →
    if s.within [.txnInit, .scNext, .done] then t.trace = s.trace else ∃ e, t.trace = s.trace ++ [e]

/-- Which micro-states write which register of the bank (spec/10_state.md R34), and that while a command runs nothing
else, and no environment, does. It speaks of a step with a reset too: that the bank then stays as it is, is
spec/70_reset_and_hazards.md R230 as the model reads it beside spec/10_state.md R45, log entry 14, DEDUCED. The
clock-selection register is stored to at CK_SEL only and kept in every other step without a reset, at IDLE too
(spec/10_state.md R42, R48); that it is read off `TRACE` is the model's reading, log entry 4, DEDUCED. -/
def Obligations.BankRegistersAreWrittenOnlyWhereTheTableSays : Prop :=
  (∀ s t : State, ¬ s.isAt .idle → step s = .next t →
    (t.bank.con ≠ s.bank.con → s.within [.stCon, .txCon, .spCon, .dis]) ∧
    (t.bank.ien ≠ s.bank.ien → s.within [.stIen, .txIen, .spIen]) ∧
    (t.bank.clkdiv ≠ s.bank.clkdiv → s.isAt .ckDiv) ∧
    (t.bank.mtxcnt ≠ s.bank.mtxcnt → s.isAt .txCnt) ∧
    (t.bank.txdata ≠ s.bank.txdata → s.isAt .txFifo) ∧
    (∀ f : Flag, s.bank.ipd.get f = true → t.bank.ipd.get f = false → s.cfg.layout.wf = true →
      s.within (clearedIn f))) ∧
  (∀ s t : State, NoReset s → step s = .next t →
    (t.clkSelStores ≠ s.clkSelStores → s.isAt .ckSel) ∧ (¬ s.isAt .ckSel → t.clkSelRegister = s.clkSelRegister))

/-- An error once recorded stays the recorded one until the result is delivered or the next transaction starts
(spec/10_state.md R28, spec/60_exceptions.md R208, R212). -/
def Obligations.FirstErrorStays : Prop :=
  ∀ (s t : State) (e : ErrKind), ¬ s.isAt .idle → NoReset s → step s = .next t →
    s.seq.err = some (.error e) → ¬ s.within [.txnInit, .ret, .done] → t.seq.err = some (.error e)

/-- No micro-step between acceptance and RET writes the request latch (spec/10_state.md R22, R27). -/
def Obligations.RequestIsImmutable : Prop :=
  ∀ s t : State, s.within txnStates → ¬ s.isAt .ret → NoReset s → step s = .next t →
    t.seq.devaddr = s.seq.devaddr ∧ t.seq.p = s.seq.p ∧ t.seq.l = s.seq.l ∧ t.seq.r = s.seq.r ∧ t.seq.d = s.seq.d

/-- After a WRTXN or a SCAN the controller is disabled: the step that ends the command leaves `CON = 0` and
`TRACE` as it was, and no sequencer register holds a value (spec/44_transaction.md R173, spec/42_startstop.md R133,
spec/10_state.md R48). -/
def Obligations.CommandEndsDisabled : Prop :=
  ∀ s : State, s.Inv → s.isAt .done → NoReset s → s.seq.cmd ≠ some .cfgclk →
    ∃ t, step s = .next t ∧ t.isAt .idle ∧ t.bank.con = 0#32 ∧ t.trace = s.trace ∧ t.seq = SeqRegs.noValues

/-- The block reads nothing of the bank but `IPD`: two states that differ only in the other registers step to the same
micro-state, sequencer registers and events, or stop alike (spec/10_state.md R47, spec/42_startstop.md R136,
spec/60_exceptions.md R206). -/
def Obligations.OnlyIpdOfTheBankIsRead : Prop :=
  ∀ (s : State) (b : Bank), b.ipd = s.bank.ipd → b.ipdOther = s.bank.ipdOther →
    match step s, step { s with bank := b } with
    | .next t, .next u => u = { t with bank := u.bank } ∧ u.bank.ipd = t.bank.ipd ∧ u.bank.ipdOther = t.bank.ipdOther
    | .fault r, .fault r' => r = r'
    | .refused r, .refused r' => r = r'
    | _, _ => False

/-! ## Result codes -/

/-- The codes of the results and errors, and the `Out` events as words: `Result(r)` has bits 31 to 2 clear and the code
below; `Report(a, p)` has bit 31 set, `p` at bit 8, the address below bit 7 and every other bit clear
(spec/30_encoding.md R88). -/
def Obligations.ResultCodesAreTheTable : Prop :=
  (TxnResult.ok.code = 0 ∧ TxnResult.noAck.code = 1 ∧ TxnResult.timeout.code = 2) ∧
  (ErrLatch.noError.code = 0 ∧ (ErrLatch.error .noAck).code = 1 ∧ (ErrLatch.error .timeout).code = 2) ∧
  (∀ x : ErrLatch, x.result.code = x.code) ∧
  (BusConditionResult.acknowledged.code = 0 ∧ BusConditionResult.timedOut.code = 1) ∧
  (Presence.absent.code = 0 ∧ Presence.present.code = 1) ∧
  (∀ r : TxnResult, (OutMsg.result r).word.toNat = r.code.toNat) ∧
  (∀ (a : BitVec 7) (p : Presence), (OutMsg.report a p).word.toNat = 2 ^ 31 + 256 * p.code.toNat + a.toNat)
end

