-- ==== Sys2Proof/Laws/Decode.lean ====
section
/-! SUPPORT. The byte lanes of a buffer word and their inverse, and the number of words of a buffer. -/

namespace Sys2Proof

/-- The lanes of a packed word are its bytes. -/
@[simp] theorem bytesOfWord_wordOfBytes (b0 b1 b2 b3 : Byte) :
    bytesOfWord (wordOfBytes b0 b1 b2 b3) = [b0, b1, b2, b3] := by
  simp only [bytesOfWord, wordOfBytes, List.cons.injEq, and_true]
  refine ⟨?_, ?_, ?_, ?_⟩
  all_goals
    apply BitVec.eq_of_getLsbD_eq
    intro i hi
    simp only [BitVec.getLsbD_extractLsb', BitVec.getLsbD_append, hi, decide_true, Bool.true_and]
  · rw [if_pos (by omega), Nat.zero_add]
  · rw [if_neg (by omega), if_pos (by omega), Nat.add_sub_cancel_left]
  · rw [if_neg (by omega), if_neg (by omega), if_pos (by omega)]
    congr 1
    omega
  · rw [if_neg (by omega), if_neg (by omega), if_neg (by omega)]
    congr 1
    omega

/-- A buffer of `n` bytes takes `ceil(n / 4)` words. -/
theorem wordsOfBytes_length (bs : List Byte) : (wordsOfBytes bs).length = wordsFor bs.length := by
  induction bs using wordsOfBytes.induct <;> (simp_all [wordsOfBytes, wordsFor]; try omega)

end Sys2Proof
end

