-- ==== Sys2Proof/Laws/Flags.lean ====
section
/-! SUPPORT. The flag operations: a test is a bit, an `IPD` read shows the flags, a store clears what it names. -/

namespace Sys2Proof

theorem getLsbD_bit (n k : Nat) : (bit n).getLsbD k = (decide (k = n) && decide (k < 32)) := by
  unfold bit
  simp only [BitVec.getLsbD_shiftLeft, BitVec.getLsbD_one]
  by_cases h : k = n
  · subst h; simp
  · by_cases hk : k < n
    · simp [hk, h]
    · have : ¬ (k - n = 0) := by omega
      simp [h, this]

/-- A flag test is the bit at the flag's position. -/
theorem hasFlag_eq_getLsbD (y : Layout) (v : Word) (f : Flag) : hasFlag y v f = v.getLsbD (y.pos f) := by
  unfold hasFlag Layout.mask
  rw [Bool.eq_iff_iff]
  simp only [bne_iff_ne, ne_eq]
  constructor
  · intro h
    by_contra hc
    apply h
    apply BitVec.eq_of_getLsbD_eq
    intro i hi
    by_cases hip : i = y.pos f
    · subst hip; simp [getLsbD_bit, hc]
    · simp [getLsbD_bit, hip]
  · intro h h0
    have hlt : y.pos f < 32 := BitVec.lt_of_getLsbD h
    have := congrArg (fun z => BitVec.getLsbD z (y.pos f)) h0
    simp only [BitVec.getLsbD_and, getLsbD_bit, h, hlt, BitVec.getLsbD_zero] at this
    simp at this

/-- The four flag positions of an allowed layout are distinct and below 32. -/
theorem Layout.pos_of_wf {y : Layout} (h : y.wf = true) :
    (∀ f, y.pos f < 32) ∧ (∀ f g, y.pos f = y.pos g → f = g) := by
  simp only [Layout.wf, Bool.and_eq_true, decide_eq_true_eq, List.nodup_cons, List.mem_cons, List.all_cons] at h
  constructor
  · intro f; cases f <;> simp only [Layout.pos] <;> omega
  · intro f g; cases f <;> cases g <;> simp only [Layout.pos] <;> intro hh <;> simp_all

/-- `IPD_ALL` has a 1 at every flag's position. -/
theorem Layout.ipdAll_of_wf {y : Layout} (h : y.wf = true) (f : Flag) : hasFlag y y.ipdAll f = true := by
  simp only [Layout.wf, Bool.and_eq_true] at h
  cases f <;> simp_all

theorem Flags.getLsbD_bitOf (x : Flags) (y : Layout) (f : Flag) (n : Nat) :
    (x.bitOf y f).getLsbD n = (x.get f && decide (n = y.pos f) && decide (n < 32)) := by
  unfold Flags.bitOf Layout.mask
  cases x.get f <;> simp [getLsbD_bit]

theorem Layout.getLsbD_flagMask (y : Layout) (n : Nat) :
    y.flagMask.getLsbD n =
      ((decide (n = y.pos .start) || decide (n = y.pos .stop) || decide (n = y.pos .mbtf) ||
        decide (n = y.pos .nakrcv)) && decide (n < 32)) := by
  unfold Layout.flagMask Layout.mask
  simp only [BitVec.getLsbD_or, getLsbD_bit]
  cases decide (n < 32) <;> simp

/-- An `IPD` read shows each flag at its position. -/
theorem Flags.hasFlag_word {y : Layout} (h : y.wf = true) (x : Flags) (other : Word) (f : Flag) :
    hasFlag y (x.word y other) f = x.get f := by
  obtain ⟨hlt, hinj⟩ := Layout.pos_of_wf h
  have hp := hlt f
  rw [hasFlag_eq_getLsbD]
  unfold Flags.word
  simp only [BitVec.getLsbD_or, BitVec.getLsbD_and, BitVec.getLsbD_not, Flags.getLsbD_bitOf, Layout.getLsbD_flagMask]
  have hne : ∀ g, f ≠ g → ¬ (y.pos f = y.pos g) := fun g hg he => hg (hinj _ _ he)
  cases f <;> simp [hp, hne]

/-- Every other bit of the read is what `Ctl` drives. -/
theorem Flags.word_other (x : Flags) (y : Layout) (other : Word) {n : Nat} (hn : n < 32)
    (h : ∀ f, n ≠ y.pos f) : (x.word y other).getLsbD n = other.getLsbD n := by
  unfold Flags.word
  simp only [BitVec.getLsbD_or, BitVec.getLsbD_and, BitVec.getLsbD_not, Flags.getLsbD_bitOf, Layout.getLsbD_flagMask]
  simp [h, hn]

/-- A store to `IPD` clears a flag exactly if its bit is 1 in the word. -/
theorem Flags.get_clearBy (x : Flags) (y : Layout) (v : Word) (f : Flag) :
    (x.clearBy y v).get f = (x.get f && !hasFlag y v f) := by
  cases f <;> rfl

theorem Flags.get_setBy (x m : Flags) (f : Flag) : (x.setBy m).get f = (x.get f || m.get f) := by
  cases f <;> rfl

/-- A single-flag mask names its flag and no other. -/
theorem hasFlag_mask {y : Layout} (h : y.wf = true) (f g : Flag) : hasFlag y (y.mask f) g = decide (f = g) := by
  obtain ⟨hlt, hinj⟩ := Layout.pos_of_wf h
  have hp := hlt g
  rw [hasFlag_eq_getLsbD]
  unfold Layout.mask
  rw [getLsbD_bit]
  by_cases hfg : f = g
  · subst hfg; simp [hp]
  · have : ¬ (y.pos g = y.pos f) := fun he => hfg (hinj _ _ he.symm)
    simp [this, hfg]

/-- Clearing by a single-flag mask clears that flag alone. -/
theorem Flags.clearBy_mask {y : Layout} (h : y.wf = true) (x : Flags) (f : Flag) :
    x.clearBy y (y.mask f) =
      { start := x.start && !decide (f = .start), stop := x.stop && !decide (f = .stop),
        mbtf := x.mbtf && !decide (f = .mbtf), nakrcv := x.nakrcv && !decide (f = .nakrcv) } := by
  simp [Flags.clearBy, hasFlag_mask h]

/-- Clearing by `IPD_ALL` clears all four flags. -/
theorem Flags.clearBy_ipdAll {y : Layout} (h : y.wf = true) (x : Flags) :
    x.clearBy y y.ipdAll = { start := false, stop := false, mbtf := false, nakrcv := false } := by
  simp [Flags.clearBy, Layout.ipdAll_of_wf h]

end Sys2Proof
end

