-- ==== Sys2Proof/Laws/State.lean ====
section
/-! SUPPORT. What each update of the state does to each field: one lemma per field and update, true by rfl, so that no
later proof unfolds a record update. -/

namespace Sys2Proof.Machine

variable (s : State)

/-! ### `goto` -/

@[simp] theorem goto_cfg (m : MicroState) : (s.goto m).cfg = s.cfg := rfl
@[simp] theorem goto_upc (m : MicroState) : (s.goto m).upc = m.code := rfl
@[simp] theorem goto_seq (m : MicroState) : (s.goto m).seq = s.seq := rfl
@[simp] theorem goto_bank (m : MicroState) : (s.goto m).bank = s.bank := rfl
@[simp] theorem goto_port (m : MicroState) : (s.goto m).port = s.port := rfl
@[simp] theorem goto_trace (m : MicroState) : (s.goto m).trace = s.trace := rfl
@[simp] theorem goto_env (m : MicroState) : (s.goto m).env = s.env := rfl
@[simp] theorem goto_turn (m : MicroState) : (s.goto m).turn = s.turn := rfl

/-! ### `emitEvent` -/

@[simp] theorem emitEvent_cfg (e : Event) : (s.emitEvent e).cfg = s.cfg := rfl
@[simp] theorem emitEvent_upc (e : Event) : (s.emitEvent e).upc = s.upc := rfl
@[simp] theorem emitEvent_seq (e : Event) : (s.emitEvent e).seq = s.seq := rfl
@[simp] theorem emitEvent_bank (e : Event) : (s.emitEvent e).bank = s.bank := rfl
@[simp] theorem emitEvent_port (e : Event) : (s.emitEvent e).port = s.port := rfl
@[simp] theorem emitEvent_trace (e : Event) : (s.emitEvent e).trace = s.trace ++ [e] := rfl
@[simp] theorem emitEvent_env (e : Event) : (s.emitEvent e).env = s.env := rfl
@[simp] theorem emitEvent_turn (e : Event) : (s.emitEvent e).turn = s.turn := rfl

/-! ### `regWrite` -/

@[simp] theorem regWrite_cfg (reg : Reg) (v : Word) : (s.regWrite reg v).cfg = s.cfg := rfl
@[simp] theorem regWrite_upc (reg : Reg) (v : Word) : (s.regWrite reg v).upc = s.upc := rfl
@[simp] theorem regWrite_seq (reg : Reg) (v : Word) : (s.regWrite reg v).seq = s.seq := rfl
@[simp] theorem regWrite_bank (reg : Reg) (v : Word) : (s.regWrite reg v).bank = s.bank.store s.cfg.layout reg v := rfl
@[simp] theorem regWrite_port (reg : Reg) (v : Word) : (s.regWrite reg v).port = s.port := rfl
@[simp] theorem regWrite_trace (reg : Reg) (v : Word) : (s.regWrite reg v).trace = s.trace ++ [.w reg v] := rfl
@[simp] theorem regWrite_env (reg : Reg) (v : Word) : (s.regWrite reg v).env = s.env := rfl
@[simp] theorem regWrite_turn (reg : Reg) (v : Word) : (s.regWrite reg v).turn = s.turn := rfl

/-! ### `sampleIpd` -/

@[simp] theorem sampleIpd_cfg : (s.sampleIpd).cfg = s.cfg := rfl
@[simp] theorem sampleIpd_upc : (s.sampleIpd).upc = s.upc := rfl
@[simp] theorem sampleIpd_seq : (s.sampleIpd).seq = { s.seq with sample := some s.ipdWord } := rfl
@[simp] theorem sampleIpd_bank : (s.sampleIpd).bank = s.bank := rfl
@[simp] theorem sampleIpd_port : (s.sampleIpd).port = s.port := rfl
@[simp] theorem sampleIpd_trace : (s.sampleIpd).trace = s.trace ++ [.rd .ipd s.ipdWord] := rfl
@[simp] theorem sampleIpd_env : (s.sampleIpd).env = s.env := rfl
@[simp] theorem sampleIpd_turn : (s.sampleIpd).turn = s.turn := rfl

/-! ### `delay` -/

@[simp] theorem delay_cfg (n : Nat) : (s.delay n).cfg = s.cfg := rfl
@[simp] theorem delay_upc (n : Nat) : (s.delay n).upc = s.upc := rfl
@[simp] theorem delay_seq (n : Nat) : (s.delay n).seq = s.seq := rfl
@[simp] theorem delay_bank (n : Nat) : (s.delay n).bank = s.bank := rfl
@[simp] theorem delay_port (n : Nat) : (s.delay n).port = s.port := rfl
@[simp] theorem delay_trace (n : Nat) : (s.delay n).trace = s.trace ++ [.dly n] := rfl
@[simp] theorem delay_env (n : Nat) : (s.delay n).env = s.env := rfl
@[simp] theorem delay_turn (n : Nat) : (s.delay n).turn = s.turn := rfl

/-! ### `clkSelWrite` -/

@[simp] theorem clkSelWrite_cfg (v : Word) : (s.clkSelWrite v).cfg = s.cfg := rfl
@[simp] theorem clkSelWrite_upc (v : Word) : (s.clkSelWrite v).upc = s.upc := rfl
@[simp] theorem clkSelWrite_seq (v : Word) : (s.clkSelWrite v).seq = s.seq := rfl
@[simp] theorem clkSelWrite_bank (v : Word) : (s.clkSelWrite v).bank = s.bank := rfl
@[simp] theorem clkSelWrite_port (v : Word) : (s.clkSelWrite v).port = s.port := rfl
@[simp] theorem clkSelWrite_trace (v : Word) : (s.clkSelWrite v).trace = s.trace ++ [.cs v] := rfl
@[simp] theorem clkSelWrite_env (v : Word) : (s.clkSelWrite v).env = s.env := rfl
@[simp] theorem clkSelWrite_turn (v : Word) : (s.clkSelWrite v).turn = s.turn := rfl

/-! ### `emit` -/

@[simp] theorem emit_cfg (x : OutMsg) : (s.emit x).cfg = s.cfg := rfl
@[simp] theorem emit_upc (x : OutMsg) : (s.emit x).upc = s.upc := rfl
@[simp] theorem emit_seq (x : OutMsg) : (s.emit x).seq = s.seq := rfl
@[simp] theorem emit_bank (x : OutMsg) : (s.emit x).bank = s.bank := rfl
@[simp] theorem emit_port (x : OutMsg) : (s.emit x).port = s.port := rfl
@[simp] theorem emit_trace (x : OutMsg) : (s.emit x).trace = s.trace ++ [.out x] := rfl
@[simp] theorem emit_env (x : OutMsg) : (s.emit x).env = s.env := rfl
@[simp] theorem emit_turn (x : OutMsg) : (s.emit x).turn = s.turn := rfl

/-! ### `setCountdown` -/

@[simp] theorem setCountdown_cfg (v : Word) : (s.setCountdown v).cfg = s.cfg := rfl
@[simp] theorem setCountdown_upc (v : Word) : (s.setCountdown v).upc = s.upc := rfl
@[simp] theorem setCountdown_seq (v : Word) : (s.setCountdown v).seq = { s.seq with countdown := some v } := rfl
@[simp] theorem setCountdown_bank (v : Word) : (s.setCountdown v).bank = s.bank := rfl
@[simp] theorem setCountdown_port (v : Word) : (s.setCountdown v).port = s.port := rfl
@[simp] theorem setCountdown_trace (v : Word) : (s.setCountdown v).trace = s.trace := rfl
@[simp] theorem setCountdown_env (v : Word) : (s.setCountdown v).env = s.env := rfl
@[simp] theorem setCountdown_turn (v : Word) : (s.setCountdown v).turn = s.turn := rfl

/-! ### `record` -/

@[simp] theorem record_cfg (x : ErrLatch) (e : ErrKind) : (s.record x e).cfg = s.cfg := rfl
@[simp] theorem record_upc (x : ErrLatch) (e : ErrKind) : (s.record x e).upc = s.upc := rfl
@[simp] theorem record_seq (x : ErrLatch) (e : ErrKind) : (s.record x e).seq = { s.seq with err := some (x.record e) } := rfl
@[simp] theorem record_bank (x : ErrLatch) (e : ErrKind) : (s.record x e).bank = s.bank := rfl
@[simp] theorem record_port (x : ErrLatch) (e : ErrKind) : (s.record x e).port = s.port := rfl
@[simp] theorem record_trace (x : ErrLatch) (e : ErrKind) : (s.record x e).trace = s.trace := rfl
@[simp] theorem record_env (x : ErrLatch) (e : ErrKind) : (s.record x e).env = s.env := rfl
@[simp] theorem record_turn (x : ErrLatch) (e : ErrKind) : (s.record x e).turn = s.turn := rfl

/-! ### `chunkSetup` -/

@[simp] theorem chunkSetup_cfg (rem : Word) : (s.chunkSetup rem).cfg = s.cfg := rfl
@[simp] theorem chunkSetup_upc (rem : Word) : (s.chunkSetup rem).upc = s.upc := rfl
@[simp] theorem chunkSetup_seq (rem : Word) : (s.chunkSetup rem).seq = { s.seq with
      chunkSize := some (chunkSizeOf s.cfg.fifoDepthBytes rem),
      wordCnt := some (wordCountOf (chunkSizeOf s.cfg.fifoDepthBytes rem)),
      wordIdx := some 0#32 } := rfl
@[simp] theorem chunkSetup_bank (rem : Word) : (s.chunkSetup rem).bank = s.bank := rfl
@[simp] theorem chunkSetup_port (rem : Word) : (s.chunkSetup rem).port = s.port := rfl
@[simp] theorem chunkSetup_trace (rem : Word) : (s.chunkSetup rem).trace = s.trace := rfl
@[simp] theorem chunkSetup_env (rem : Word) : (s.chunkSetup rem).env = s.env := rfl
@[simp] theorem chunkSetup_turn (rem : Word) : (s.chunkSetup rem).turn = s.turn := rfl

/-! ### `dropRequest` -/

@[simp] theorem dropRequest_cfg : (s.dropRequest).cfg = s.cfg := rfl
@[simp] theorem dropRequest_upc : (s.dropRequest).upc = s.upc := rfl
@[simp] theorem dropRequest_seq : (s.dropRequest).seq = { s.seq with devaddr := none, p := none, l := none, r := none, d := none, err := none } := rfl
@[simp] theorem dropRequest_bank : (s.dropRequest).bank = s.bank := rfl
@[simp] theorem dropRequest_port : (s.dropRequest).port = s.port := rfl
@[simp] theorem dropRequest_trace : (s.dropRequest).trace = s.trace := rfl
@[simp] theorem dropRequest_env : (s.dropRequest).env = s.env := rfl
@[simp] theorem dropRequest_turn : (s.dropRequest).turn = s.turn := rfl

/-! ### `dropValues` -/

@[simp] theorem dropValues_cfg : (s.dropValues).cfg = s.cfg := rfl
@[simp] theorem dropValues_upc : (s.dropValues).upc = s.upc := rfl
@[simp] theorem dropValues_seq : (s.dropValues).seq = SeqRegs.noValues := rfl
@[simp] theorem dropValues_bank : (s.dropValues).bank = s.bank := rfl
@[simp] theorem dropValues_port : (s.dropValues).port = s.port := rfl
@[simp] theorem dropValues_trace : (s.dropValues).trace = s.trace := rfl
@[simp] theorem dropValues_env : (s.dropValues).env = s.env := rfl
@[simp] theorem dropValues_turn : (s.dropValues).turn = s.turn := rfl

/-! ### `latch` -/

@[simp] theorem latch_cfg (a : BitVec 7) (r d : List Byte) : (s.latch a r d).cfg = s.cfg := rfl
@[simp] theorem latch_upc (a : BitVec 7) (r d : List Byte) : (s.latch a r d).upc = s.upc := rfl
@[simp] theorem latch_seq (a : BitVec 7) (r d : List Byte) : (s.latch a r d).seq = { s.seq with
      devaddr := some a, p := some (BitVec.ofNat 32 r.length), l := some (BitVec.ofNat 32 d.length),
      r := some r, d := some d } := rfl
@[simp] theorem latch_bank (a : BitVec 7) (r d : List Byte) : (s.latch a r d).bank = s.bank := rfl
@[simp] theorem latch_port (a : BitVec 7) (r d : List Byte) : (s.latch a r d).port = s.port := rfl
@[simp] theorem latch_trace (a : BitVec 7) (r d : List Byte) : (s.latch a r d).trace = s.trace := rfl
@[simp] theorem latch_env (a : BitVec 7) (r d : List Byte) : (s.latch a r d).env = s.env := rfl
@[simp] theorem latch_turn (a : BitVec 7) (r d : List Byte) : (s.latch a r d).turn = s.turn := rfl

/-! ### `clkSelStores` -/

/-- The one operation that adds a store. -/
@[simp] theorem clkSelWrite_stores (v : Word) : (s.clkSelWrite v).clkSelStores = s.clkSelStores ++ [v] := by
  simp [State.clkSelStores, State.clkSelWrite, State.emitEvent]

@[simp] theorem regWrite_stores (reg : Reg) (v : Word) : (s.regWrite reg v).clkSelStores = s.clkSelStores := by
  simp [State.clkSelStores, State.regWrite]

@[simp] theorem sampleIpd_stores : s.sampleIpd.clkSelStores = s.clkSelStores := by
  simp [State.clkSelStores, State.sampleIpd]

@[simp] theorem delay_stores (n : Nat) : (s.delay n).clkSelStores = s.clkSelStores := by
  simp [State.clkSelStores, State.delay, State.emitEvent]

@[simp] theorem emit_stores (x : OutMsg) : (s.emit x).clkSelStores = s.clkSelStores := by
  simp [State.clkSelStores, State.emit, State.emitEvent]

@[simp] theorem assertReset_stores : s.assertReset.clkSelStores = [] := rfl

/-! ### `assertReset` -/

@[simp] theorem assertReset_cfg : (s.assertReset).cfg = s.cfg := rfl
@[simp] theorem assertReset_upc : (s.assertReset).upc = MicroState.code .idle := rfl
@[simp] theorem assertReset_seq : (s.assertReset).seq = SeqRegs.noValues := rfl
@[simp] theorem assertReset_bank : (s.assertReset).bank = s.bank := rfl
@[simp] theorem assertReset_port : (s.assertReset).port = s.port := rfl
@[simp] theorem assertReset_trace : (s.assertReset).trace = [] := rfl
@[simp] theorem assertReset_env : (s.assertReset).env = s.env := rfl
@[simp] theorem assertReset_turn : (s.assertReset).turn = s.turn := rfl

/-! ### `ctlMove` -/

@[simp] theorem ctlMove_cfg (m : EnvMove) : (s.ctlMove m).cfg = s.cfg := rfl
@[simp] theorem ctlMove_upc (m : EnvMove) : (s.ctlMove m).upc = s.upc := rfl
@[simp] theorem ctlMove_seq (m : EnvMove) : (s.ctlMove m).seq = s.seq := rfl
@[simp] theorem ctlMove_bank (m : EnvMove) : (s.ctlMove m).bank = { s.bank with ipd := s.bank.ipd.setBy m.set, ipdOther := m.other } := rfl
@[simp] theorem ctlMove_port (m : EnvMove) : (s.ctlMove m).port = s.port := rfl
@[simp] theorem ctlMove_trace (m : EnvMove) : (s.ctlMove m).trace = s.trace := rfl
@[simp] theorem ctlMove_env (m : EnvMove) : (s.ctlMove m).env = s.env.tail := rfl
@[simp] theorem ctlMove_turn (m : EnvMove) : (s.ctlMove m).turn = s.turn + 1 := rfl

end Sys2Proof.Machine
end

