-- ==== Sys2Proof/Laws/Ops.lean ====
section
/-! SUPPORT. Once for each shared operation, everything it can do; the environment's turn; what a step is. -/

namespace Sys2Proof

/-! ## Codes -/

@[simp] theorem MicroState.ofCode_code (m : MicroState) : MicroState.ofCode m.code = some m := by
  cases m <;> rfl

@[simp] theorem MicroState.code_inj {m m' : MicroState} : m.code = m'.code ↔ m = m' := by
  constructor
  · intro h
    have := congrArg MicroState.ofCode h
    simpa using this
  · rintro rfl; rfl

end Sys2Proof

namespace Sys2Proof.Machine

@[simp] theorem decodeMicro_code (m : MicroState) : decodeMicro m.code = .ok (Instr.ofMicro m) := by
  simp [decodeMicro]

theorem decodeMicro_ne_malformed (c : BitVec 5) (i : Instr) (h : decodeMicro c = .ok i) :
    ∃ m, MicroState.ofCode c = some m ∧ i = Instr.ofMicro m := by
  unfold decodeMicro at h
  split at h
  · next m hm => exact ⟨m, hm, by injection h with h; exact h.symm⟩
  · cases h

/-! ## Reading a register -/

@[simp] theorem need_some {α : Type} (reg : SeqReg) (a : α) (k : α → Answer) : need reg (some a) k = k a := rfl

theorem need_eq_next {α : Type} {reg : SeqReg} {x : Option α} {k : α → Answer} {t : State} :
    need reg x k = .next t ↔ ∃ a, x = some a ∧ k a = .next t := by
  cases x <;> simp [need]

theorem need_eq_refused {α : Type} {reg : SeqReg} {x : Option α} {k : α → Answer} {r : Refusal} :
    need reg x k = .refused r ↔ ∃ a, x = some a ∧ k a = .refused r := by
  cases x <;> simp [need]

theorem need_eq_fault {α : Type} {reg : SeqReg} {x : Option α} {k : α → Answer} {r : Fault} :
    need reg x k = .fault r ↔ (x = none ∧ r = .noValue reg) ∨ ∃ a, x = some a ∧ k a = .fault r := by
  cases x <;> simp [need, eq_comm]

/-! ## The bank -/

/-- No store changes how many `TXDATA` registers there are. -/
@[simp] theorem store_txdata_length (b : Bank) (y : Layout) (reg : Reg) (v : Word) :
    (b.store y reg v).txdata.length = b.txdata.length := by
  cases reg <;> simp [Bank.store]

@[simp] theorem store_ipdOther (b : Bank) (y : Layout) (reg : Reg) (v : Word) :
    (b.store y reg v).ipdOther = b.ipdOther := by
  cases reg <;> rfl

/-! ## The environment's turn -/

@[simp] theorem hostMove_cfg (s : State) (h : HostMove) : (s.hostMove h).cfg = s.cfg := by
  cases h <;> simp only [State.hostMove] <;> (try split) <;> rfl

@[simp] theorem envTurn_cfg (s : State) : s.envTurn.cfg = s.cfg := by simp [State.envTurn]

/-- A host move that is no reset does nothing while a command runs. -/
theorem hostMove_of_busy (s : State) (h : HostMove) (hb : ¬ s.isAt .idle) (hr : h ≠ .reset) : s.hostMove h = s := by
  cases h <;> simp_all [State.hostMove]

/-- While a command runs and no reset is asserted, the turn is `Ctl`'s half of it. -/
theorem envTurn_of_busy (s : State) (hb : ¬ s.isAt .idle) (hr : s.envMove.host ≠ .reset) :
    s.envTurn = s.ctlMove s.envMove := hostMove_of_busy _ _ hb hr

/-- A turn in which reset is asserted. -/
theorem envTurn_of_reset (s : State) (hr : s.envMove.host = .reset) :
    s.envTurn = (s.ctlMove s.envMove).assertReset := by
  simp [State.envTurn, hr, State.hostMove]

theorem afterEnv_of_reset (s : State) (f : State → Answer) (hr : s.envMove.host = .reset) :
    afterEnv s f = .next s.envTurn := by simp [afterEnv, hr]

theorem afterEnv_of_noReset (s : State) (f : State → Answer) (hr : s.envMove.host ≠ .reset) :
    afterEnv s f = f s.envTurn := by simp [afterEnv, hr]

/-! ## Sequencing -/

theorem thenAt_at {t : State} {m : MicroState} (f : State → Answer) (h : t.isAt m) :
    thenAt (.next t) m f = afterEnv t f := by simp [thenAt, h]

theorem thenAt_not_at {t : State} {m : MicroState} (f : State → Answer) (h : ¬ t.isAt m) :
    thenAt (.next t) m f = .next t := by simp [thenAt, h]

@[simp] theorem thenAt_fault (r : Fault) (m : MicroState) (f : State → Answer) : thenAt (.fault r) m f = .fault r := rfl

@[simp] theorem thenAt_refused (r : Refusal) (m : MicroState) (f : State → Answer) :
    thenAt (.refused r) m f = .refused r := rfl

/-- Everything sequencing can answer with a next state. -/
theorem thenAt_eq_next {o : Answer} {m : MicroState} {f : State → Answer} {t : State} :
    thenAt o m f = .next t ↔
      ∃ u, o = .next u ∧ ((u.isAt m ∧ afterEnv u f = .next t) ∨ (¬ u.isAt m ∧ t = u)) := by
  cases o with
  | next u =>
    constructor
    · intro h
      by_cases hu : u.isAt m
      · rw [thenAt_at f hu] at h; exact ⟨u, rfl, .inl ⟨hu, h⟩⟩
      · rw [thenAt_not_at f hu] at h; injection h with h; exact ⟨u, rfl, .inr ⟨hu, h.symm⟩⟩
    · rintro ⟨v, hv, h⟩
      injection hv with hv
      subst hv
      rcases h with ⟨hu, h⟩ | ⟨hu, rfl⟩
      · rw [thenAt_at f hu]; exact h
      · exact thenAt_not_at f hu
  | fault r => simp
  | refused r => simp

/-! ## Shared shapes of micro-steps -/

/-- A store and its successor: the bank's store, one `W` event, nothing else. -/
theorem storeStep_eq (reg : Reg) (v : Word) (m : MicroState) (s : State) :
    storeStep reg v m s = .next { s with
      upc := m.code, bank := s.bank.store s.cfg.layout reg v, trace := s.trace ++ [.w reg v] } := rfl

/-- The store before a wait also loads the budget. -/
theorem armStep_eq (v : Word) (m : MicroState) (s : State) :
    armStep v m s = .next { s with
      upc := m.code, bank := { s.bank with ien := v }, seq := { s.seq with countdown := some s.cfg.timeoutBudget },
      trace := s.trace ++ [.w .ien v] } := rfl

/-- A quantum with a budget at hand. -/
theorem quantumStep_of_countdown {s : State} {n : Word} (m : MicroState) (h : s.seq.countdown = some n) :
    quantumStep m s = .next { s with
      upc := m.code, seq := { s.seq with countdown := some (n - 1#32) }, trace := s.trace ++ [.dly 1] } := by
  simp only [quantumStep, h, need_some]; rfl

/-- It is a choice by the flag test. -/
theorem ifSeen_eq (b : Bool) (t : State) (o : Answer) : ifSeen b t o = if b = true then .next t else o := by
  cases o <;> cases b <;> rfl

/-- The countdown's part of a check, with its two registers at hand. -/
theorem orTimeout_of_latch {s : State} {n : Word} {x : ErrLatch} (timedOut again : MicroState)
    (hn : s.seq.countdown = some n) (hx : s.seq.err = some x) :
    s.orTimeout timedOut again =
      .next (if n = 0#32 then (s.record x .timeout).goto timedOut else s.goto again) := by
  simp only [State.orTimeout, hn, hx, need_some]
  split <;> rfl

/-- A check that finds its flag needs neither the countdown nor the latch. -/
theorem checkStep_of_flag {s : State} {f : Flag} (found timedOut again : MicroState)
    (hf : hasFlag s.cfg.layout s.ipdWord f = true) :
    checkStep f found timedOut again s = .next (s.sampleIpd.goto found) := by
  rw [checkStep, ifSeen_eq, if_pos hf]

/-- The three ways a single-flag check ends. -/
theorem checkStep_of_latch {s : State} {n : Word} {x : ErrLatch} (f : Flag) (found timedOut again : MicroState)
    (hn : s.seq.countdown = some n) (hx : s.seq.err = some x) :
    checkStep f found timedOut again s = .next
      (if hasFlag s.cfg.layout s.ipdWord f = true then s.sampleIpd.goto found
        else if n = 0#32 then (s.sampleIpd.record x .timeout).goto timedOut else s.sampleIpd.goto again) := by
  rw [checkStep, ifSeen_eq, orTimeout_of_latch (s := s.sampleIpd) timedOut again hn hx]
  split <;> rfl

/-- The quanta of a wait whose countdown holds a value. -/
theorem quanta_of_countdown {s : State} {n : Word} (h : s.seq.countdown = some n) : s.quanta = n.toNat := by
  simp [State.quanta, h]

/-! ## The result of a wait -/

/-- The three ways a wait's answer can be read. -/
theorem waitResult_next (f : Flag) (t : State) :
    waitResult f (.next t) = if t.isAt .idle then none
      else some (if t.trace.getLast? = some (.w .ipd (t.cfg.layout.mask f)) then .acknowledged else .timedOut) := rfl

/-- A wait that ends with the clear of its flag is acknowledged. -/
theorem waitResult_of_clear {f : Flag} {t : State} (h : ¬ t.isAt .idle)
    (hl : t.trace.getLast? = some (.w .ipd (t.cfg.layout.mask f))) :
    waitResult f (.next t) = some .acknowledged := by rw [waitResult_next, if_neg h, if_pos hl]

/-- A wait that ends with a check has timed out. -/
theorem waitResult_of_check {f : Flag} {t : State} {v : Word} (h : ¬ t.isAt .idle)
    (hl : t.trace.getLast? = some (.rd .ipd v)) : waitResult f (.next t) = some .timedOut := by
  rw [waitResult_next, if_neg h, hl, if_neg (by simp)]

@[simp] theorem waitResult_fault (f : Flag) (r : Fault) : waitResult f (.fault r) = none := rfl

@[simp] theorem waitResult_refused (f : Flag) (r : Refusal) : waitResult f (.refused r) = none := rfl

/-! ## The step -/

/-- While a command runs, what is fetched is the micro-operation of `upc`. -/
theorem fetch_of_busy (s : State) (h : ¬ s.isAt .idle) : s.fetch = .micro s.upc := by
  unfold State.fetch
  cases s.port <;> simp [h]

theorem runFetched_at {s : State} {m : MicroState} (h : s.isAt m) (hm : m ≠ .idle) :
    runFetched s = exec (Instr.ofMicro m) s := by
  have hb : ¬ s.isAt .idle := by
    intro hi
    have : m.code = MicroState.code .idle := h.symm.trans hi
    exact hm (MicroState.code_inj.1 this)
  unfold runFetched
  rw [fetch_of_busy s hb]
  have hu : s.upc = m.code := h
  simp [decode, hu]

theorem step_of_reset (s : State) (hr : s.envMove.host = .reset) : step s = .next s.envTurn :=
  afterEnv_of_reset s _ hr

theorem step_of_noReset (s : State) (hr : s.envMove.host ≠ .reset) : step s = runFetched s.envTurn :=
  afterEnv_of_noReset s _ hr

/-- A step at a micro-state other than `IDLE`: `Ctl`'s move, then the row. -/
theorem step_at {s : State} {m : MicroState} (h : s.isAt m) (hm : m ≠ .idle) (hr : s.envMove.host ≠ .reset) :
    step s = exec (Instr.ofMicro m) (s.ctlMove s.envMove) := by
  have hb : ¬ s.isAt .idle := by
    intro hi
    have : m.code = MicroState.code .idle := h.symm.trans hi
    exact hm (MicroState.code_inj.1 this)
  rw [step_of_noReset s hr, envTurn_of_busy s hb hr]
  exact runFetched_at (s := s.ctlMove s.envMove) h hm

end Sys2Proof.Machine
end

