-- ==== Sys2Proof/Laws/PerInstr.lean ====
section
/-! SUPPORT. Statements made per instruction: the family `Sized` says how many words an instruction's encoding has. -/

namespace Sys2Proof.Laws

/-- The words of an encoding: a code of `upc` is none. -/
def encodingWords : Encoding → Nat
  | .descriptor ws => ws.length
  | .entry _ | .micro _ => 0

/-- The words the spec's formats give an instruction (spec/30_encoding.md R73 to R75). -/
def formatWords : Instr → Nat
  | .cfgclk _ => 2
  | .wrtxn _ r d => 3 + ceilDiv r.length 4 + ceilDiv d.length 4
  | .scan | .reservedOp3 _ => 1
  | .sendStart | .pollStart | .txChunk | .txWait | .sendStop | .pollStop | .disable | .idle | .ckSel
  | .ckDiv | .txnInit | .stClr | .stCon | .stIen | .stChk | .stAck | .stDly | .txFifo
  | .txCon | .txCnt | .txIen | .txChk | .txNak | .txAck | .txDly | .spClr | .spCon
  | .spIen | .spChk | .spAck | .spDly | .dis | .ret | .scNext | .scDly | .done => 0

namespace Sized

/-- A well-formed instruction is encoded in exactly the words of its format. -/
def Statement (i : Instr) : Prop := i.wellFormed = true → encodingWords (encode i) = formatWords i

theorem cfgclk (hz : Word) : Statement (.cfgclk hz) := fun _ => rfl

theorem wrtxn (a : BitVec 7) (r d : List Byte) : Statement (.wrtxn a r d) := by
  intro _
  simp [encode, encodingWords, formatWords, wordsOfBytes_length, wordsFor, ceilDiv]
  omega

theorem scan : Statement .scan := fun _ => rfl

theorem reservedOp3 (rest : BitVec 30) : Statement (.reservedOp3 rest) := fun _ => rfl

theorem sendStart : Statement .sendStart := fun _ => rfl
theorem pollStart : Statement .pollStart := fun _ => rfl
theorem txChunk : Statement .txChunk := fun _ => rfl
theorem txWait : Statement .txWait := fun _ => rfl
theorem sendStop : Statement .sendStop := fun _ => rfl
theorem pollStop : Statement .pollStop := fun _ => rfl
theorem disable : Statement .disable := fun _ => rfl
theorem idle : Statement .idle := fun _ => rfl
theorem ckSel : Statement .ckSel := fun _ => rfl
theorem ckDiv : Statement .ckDiv := fun _ => rfl
theorem txnInit : Statement .txnInit := fun _ => rfl
theorem stClr : Statement .stClr := fun _ => rfl
theorem stCon : Statement .stCon := fun _ => rfl
theorem stIen : Statement .stIen := fun _ => rfl
theorem stChk : Statement .stChk := fun _ => rfl
theorem stAck : Statement .stAck := fun _ => rfl
theorem stDly : Statement .stDly := fun _ => rfl
theorem txFifo : Statement .txFifo := fun _ => rfl
theorem txCon : Statement .txCon := fun _ => rfl
theorem txCnt : Statement .txCnt := fun _ => rfl
theorem txIen : Statement .txIen := fun _ => rfl
theorem txChk : Statement .txChk := fun _ => rfl
theorem txNak : Statement .txNak := fun _ => rfl
theorem txAck : Statement .txAck := fun _ => rfl
theorem txDly : Statement .txDly := fun _ => rfl
theorem spClr : Statement .spClr := fun _ => rfl
theorem spCon : Statement .spCon := fun _ => rfl
theorem spIen : Statement .spIen := fun _ => rfl
theorem spChk : Statement .spChk := fun _ => rfl
theorem spAck : Statement .spAck := fun _ => rfl
theorem spDly : Statement .spDly := fun _ => rfl
theorem dis : Statement .dis := fun _ => rfl
theorem ret : Statement .ret := fun _ => rfl
theorem scNext : Statement .scNext := fun _ => rfl
theorem scDly : Statement .scDly := fun _ => rfl
theorem done : Statement .done := fun _ => rfl

end Sized

end Sys2Proof.Laws
end

