-- ==== Sys2Proof/Tests/Slice0.lean ====
section
/-! SUPPORT. The model's own tests: expected results come from spec/95_test_vectors.md and the spec's tables. Then, for
every statement with hypotheses, a named witness that meets them. -/

open Sys2Proof Sys2Proof.Machine

namespace Sys2Proof.Tests

/-! ## Small states -/

/-- An instance with a budget of `B`, small enough to run its waits. -/
def cfgWith (B : Word) : Config := { timeoutBudget := B }

/-- A bank of zeros with these flags. -/
def bankWith (x : Flags) : Bank :=
  { con := 0#32, ien := 0#32, clkdiv := 0#32, mtxcnt := 0#32, ipd := x, ipdOther := 0#32, txdata := List.replicate 8 0#32 }

def noFlags : Flags := { start := false, stop := false, mbtf := false, nakrcv := false }
def allFlags : Flags := { start := true, stop := true, mbtf := true, nakrcv := true }

/-- The block at a micro-state of `WRTXN 0x50, [0x10], []` (TOTAL = 2, one chunk), budget and countdown `B`, no flag
set, and an environment that stays still for 16 turns. -/
def at_ (m : MicroState) (B : Word) : State where
  cfg := cfgWith B
  upc := m.code
  seq := { cmd := some .wrtxn, devaddr := some 0x50#7, p := some 1#32, l := some 0#32, r := some [0x10#8], d := some [],
           bytesRem := some 2#32, streamOff := some 0#32, chunkSize := some 2#32, wordCnt := some 1#32,
           wordIdx := some 0#32, countdown := some B, sample := some 0#32, err := some .noError,
           scanAddr := none, hz := none }
  bank := bankWith noFlags
  port := none
  trace := []
  env := List.replicate 16 EnvMove.still
  turn := 0

/-- The idle block with a descriptor at its port. -/
def idleWith (ws : List Word) : State :=
  { State.launch (cfgWith 1#32) (bankWith noFlags) with port := some ws, env := List.replicate 4 EnvMove.still }

/-- The same state with other flags. -/
def flagged (s : State) (x : Flags) : State := { s with bank := { s.bank with ipd := x } }

/-- The same state with the bank registers a wait or the end of a transaction has. -/
def withBank (s : State) (con ien mtxcnt : Word) : State :=
  { s with bank := { s.bank with con := con, ien := ien, mtxcnt := mtxcnt } }

/-- The same state with other sequencer registers. -/
def withSeq (s : State) (f : SeqRegs → SeqRegs) : State := { s with seq := f s.seq }

/-- The same state with this environment. -/
def withEnv (s : State) (e : List EnvMove) : State := { s with env := e }

/-- A turn in which `Ctl` sets these flags. -/
def setting (x : Flags) : EnvMove := { set := x, other := 0#32, host := .quiet }

/-- A turn in which the host does this. -/
def hosting (h : HostMove) : EnvMove := { set := noFlags, other := 0#32, host := h }

def isNext : Answer → Bool
  | .next _ => true
  | _ => false

def traceOf : Answer → List Event
  | .next t => t.trace
  | _ => []

def refusalOf : Answer → Option Refusal
  | .refused r => some r
  | _ => none

def faultOf : Answer → Option Fault
  | .fault r => some r
  | _ => none

def seqOf : Answer → SeqRegs
  | .next t => t.seq
  | _ => SeqRegs.noValues

def upcOf : Answer → BitVec 5
  | .next t => t.upc
  | _ => 31#5

/-! ## Well-formedness: an ill-formed term for each check -/

theorem test_wellFormed_refuses_zero_frequency : (Instr.cfgclk 0#32).wellFormed = false := by decide

theorem test_wellFormed_refuses_too_long (a : BitVec 7) (r : List Byte) (h : r.length = 2 ^ 32 - 2) :
    (Instr.wrtxn a r [0x01#8]).wellFormed = false := by
  simp only [Instr.wellFormed, lengthsWellFormed, h, List.length_singleton]; decide

theorem test_wellFormed_takes_the_longest (a : BitVec 7) (r : List Byte) (h : r.length = 2 ^ 32 - 2) :
    (Instr.wrtxn a r []).wellFormed = true := by
  simp only [Instr.wellFormed, lengthsWellFormed, h, List.length_nil]; decide

/-! ## Decoding: words written out from the spec's encodings (spec/95_test_vectors.md 2.7) -/

/-- V-ENC-1 -/
theorem test_decode_cfgclk : decode (.descriptor [0x00000000#32, 0x000186A0#32]) = .ok (.cfgclk 100000#32) := by rfl

/-- V-ENC-2 -/
theorem test_decode_wrtxn :
    decode (.descriptor [0x00000141#32, 1#32, 0#32, 0x00000010#32]) = .ok (.wrtxn 0x50#7 [0x10#8] []) := by rfl

/-- V-ENC-4 -/
theorem test_decode_wrtxn_empty : decode (.descriptor [1#32, 0#32, 0#32]) = .ok (.wrtxn 0x00#7 [] []) := by rfl

/-- V-ENC-5 -/
theorem test_decode_wrtxn_top_address :
    decode (.descriptor [0x000001FD#32, 0#32, 0#32]) = .ok (.wrtxn 0x7F#7 [] []) := by rfl

/-- V-ENC-11 -/
theorem test_decode_wrtxn_ignores_lanes_past_the_end :
    decode (.descriptor [0x00000141#32, 1#32, 0#32, 0xFFFFFF10#32]) = .ok (.wrtxn 0x50#7 [0x10#8] []) := by rfl

/-- V-ENC-6 -/
theorem test_decode_scan : decode (.descriptor [0x00000002#32]) = .ok .scan := by rfl

/-- V-ENC-7 -/
theorem test_decode_reserved : decode (.descriptor [0x00000003#32]) = .ok (.reservedOp3 0#30) := by rfl

/-- V-ENC-8 -/
theorem test_decode_refuses_reserved_bit :
    decode (.descriptor [0x00000201#32, 0#32, 0#32]) = .error .reservedBits := by rfl

/-- V-ENC-9 -/
theorem test_decode_refuses_stray_address : decode (.descriptor [0x00000142#32]) = .error .strayAddress := by rfl

/-- V-ENC-10 -/
theorem test_decode_refuses_too_long :
    decode (.descriptor [1#32, 0xFFFFFFFF#32, 1#32]) = .error .tooLong := by rfl

/-- spec/30_encoding.md R77, R93 -/
theorem test_decode_refuses_short :
    decode (.descriptor [0#32]) = .error .tooShort ∧ decode (.descriptor [0x141#32, 1#32, 0#32]) = .error .tooShort ∧
    decode (.descriptor []) = .error .tooShort := ⟨rfl, rfl, rfl⟩

/-- The codes of spec/30_encoding.md R86, in binary, and of R89 for the operations. -/
theorem test_decode_micro_codes :
    (List.range 29).map (fun c => (decode (.micro (BitVec.ofNat 5 c))).toOption) =
      [Instr.idle, .ckSel, .ckDiv, .txnInit, .stClr, .stCon, .stIen, .stChk, .stAck, .stDly, .txFifo, .txCon, .txCnt,
        .txIen, .txChk, .txNak, .txAck, .txDly, .spClr, .spCon, .spIen, .spChk, .spAck, .spDly, .dis, .ret, .scNext,
        .scDly, .done].map some := by rfl

theorem test_decode_entries :
    [0b00100#5, 0b00111#5, 0b01010#5, 0b01110#5, 0b10010#5, 0b10101#5, 0b11000#5].map
      (fun c => (decode (.entry c)).toOption) =
      [Instr.sendStart, .pollStart, .txChunk, .txWait, .sendStop, .pollStop, .disable].map some := by rfl

theorem test_decode_refuses_unused_codes :
    decode (.micro 29#5) = .error (.unusedMicroCode 29#5) ∧ decode (.micro 31#5) = .error (.unusedMicroCode 31#5) ∧
    decode (.entry 0#5) = .error (.noSuchEntry 0#5) := ⟨rfl, rfl, rfl⟩

/-- Rows of spec/opcode_table.json as `decodeTableWord` reads them. -/
theorem test_table_rows :
    decodeTableWord 32 0x00000000 = some (.cfgclk 0#32) ∧ decodeTableWord 32 0x00000001 = some (.wrtxn 0#7 [] []) ∧
    decodeTableWord 32 0x00000002 = some .scan ∧ decodeTableWord 32 0x00000003 = some (.reservedOp3 0#30) ∧
    decodeTableWord 8 0x1C = some .done ∧ decodeTableWord 8 0x1D = none := ⟨rfl, rfl, rfl, rfl, rfl, rfl⟩

/-- Each micro-operation and each command but the refused ones runs as the first instruction after reset. -/
theorem test_rows_run_from_reset :
    (∀ c < 29, isNext (step (State.reset.withFetchWord 8 c)) = true) ∧
    isNext (step (State.reset.withFetchWord 32 1)) = true ∧ isNext (step (State.reset.withFetchWord 32 2)) = true ∧
    refusalOf (step (State.reset.withFetchWord 32 3)) = some .reservedOp ∧
    refusalOf (step (State.reset.withFetchWord 32 0)) = some (.unsupportedFrequency 0#32) := by decide

/-! ## Vectors of spec/95_test_vectors.md -/

/-- V-CLK-1 to V-CLK-9 -/
theorem test_clkdiv_vectors :
    [(24000000, 100000), (26000000, 100000), (24000000, 400000), (100000000, 100000), (50000000, 400000),
      (198000000, 100000), (1600000, 100000), (800000, 100000), (104857600000, 100000)].map
        (fun x => clkDivDefault x.1 x.2) =
      [(14, 14), (15, 16), (3, 3), (61, 62), (7, 7), (123, 123), (0, 0), (0, 0), (65535, 65535)] := by decide

/-- V-CLK-1, the store. -/
theorem test_ckDiv_store :
    traceOf (exec .ckDiv (withSeq (at_ .ckDiv 1#32) fun q => { q with hz := some 100000#32 })) =
      [.w .clkdiv 0x000E000E#32] := by decide

/-- V-CLK-9 is an instance, V-CLK-10 is refused at instantiation. -/
theorem test_instantiation :
    (instantiate { refClkHz := 104857600000 } (bankWith noFlags)).isSome = true ∧
    (instantiate { refClkHz := 104857600001 } (bankWith noFlags)).isSome = false := by decide

/-- V-CLK-11, V-CLK-12 -/
theorem test_cfgclk_refused :
    refusalOf (step (idleWith [0#32, 400000#32])) = some (.unsupportedFrequency 400000#32) ∧
    refusalOf (step (idleWith [0#32, 0#32])) = some (.unsupportedFrequency 0#32) := by decide

/-- V-POLL-3 and V-POLL-4 -/
theorem test_pollStart_last_check_and_timeout :
    (pollStartResult (withEnv (at_ .stChk 2#32)
      (List.replicate 3 EnvMove.still ++ [setting { noFlags with start := true }, EnvMove.still])) = some .acknowledged ∧
      pollStartResult (at_ .stChk 2#32) = some .timedOut) ∧
    traceOf (exec .pollStart (withEnv (at_ .stChk 2#32)
      (List.replicate 3 EnvMove.still ++ [setting { noFlags with start := true }, EnvMove.still]))) =
      [.rd .ipd 0#32, .dly 1, .rd .ipd 0#32, .dly 1, .rd .ipd 0x10#32, .w .ipd 0x10#32] ∧
    traceOf (exec .pollStart (at_ .stChk 2#32)) =
      [.rd .ipd 0#32, .dly 1, .rd .ipd 0#32, .dly 1, .rd .ipd 0#32] := by decide

/-- V-POLL-6, on the stop wait: the timeout is recorded and no clear is issued. -/
theorem test_pollStop_timeout :
    pollStopResult (at_ .spChk 0#32) = some .timedOut ∧
    traceOf (exec .pollStop (at_ .spChk 0#32)) = [.rd .ipd 0#32] ∧
    (seqOf (exec .pollStop (at_ .spChk 0#32))).err = some (.error .timeout) := by decide

/-- V-TXW-3 -/
theorem test_txWait_nack_before_completion :
    traceOf (exec .txWait (flagged (at_ .txChk 3#32) { noFlags with mbtf := true, nakrcv := true })) =
      [.rd .ipd 0x44#32, .w .ipd 0x40#32, .w .ipd 0x4#32] ∧
    (seqOf (exec .txWait (flagged (at_ .txChk 3#32) { noFlags with mbtf := true, nakrcv := true }))).err =
      some (.error .noAck) := by decide

/-- V-TXW-5 -/
theorem test_txWait_timeout_after_nack :
    traceOf (exec .txWait (withEnv (at_ .txChk 2#32)
      ([EnvMove.still, setting { noFlags with nakrcv := true }] ++ List.replicate 6 EnvMove.still))) =
      [.rd .ipd 0#32, .dly 1, .rd .ipd 0x40#32, .w .ipd 0x40#32, .dly 1, .rd .ipd 0#32] ∧
    (seqOf (exec .txWait (withEnv (at_ .txChk 2#32)
      ([EnvMove.still, setting { noFlags with nakrcv := true }] ++ List.replicate 6 EnvMove.still)))).err =
      some (.error .noAck) := by decide

/-- V-TXW-7: a NACK at the last check is no acknowledgement; V-TXW-8: with completion in the same sample it is one. -/
theorem test_txWait_results :
    txWaitResult (flagged (at_ .txChk 0#32) { noFlags with nakrcv := true }) = some .timedOut ∧
    txWaitResult (flagged (at_ .txChk 0#32) { noFlags with nakrcv := true, mbtf := true }) = some .acknowledged := by decide

/-- V-SS-3, V-SS-5: the results; a reset in the wait leaves none (spec/70_reset_and_hazards.md R230). -/
theorem test_start_stop_results :
    sendStartResult (at_ .stClr 1#32) = some .timedOut ∧
    sendStopResult (withEnv (at_ .spClr 1#32)
      [EnvMove.still, EnvMove.still, setting { noFlags with stop := true }, EnvMove.still]) = some .acknowledged ∧
    sendStartResult (withEnv (at_ .stClr 1#32) [EnvMove.still, hosting .reset]) = none := by decide

/-- V-SS-3 and V-SS-4 -/
theorem test_sendStart_times_out :
    traceOf (exec .sendStart (flagged (at_ .stClr 1#32) { noFlags with start := true })) =
      [.w .ipd 0x7F#32, .w .con 0x9#32, .w .ien 0x10#32, .rd .ipd 0#32, .dly 1, .rd .ipd 0#32] := by decide

/-- V-SS-7 -/
theorem test_sendStop_wipes_pending_flags :
    traceOf (exec .sendStop (withEnv (flagged (at_ .spClr 1#32) { noFlags with mbtf := true, nakrcv := true })
      [EnvMove.still, EnvMove.still, setting { noFlags with stop := true }, EnvMove.still])) =
      [.w .ipd 0x7F#32, .w .con 0x11#32, .w .ien 0x20#32, .rd .ipd 0x20#32, .w .ipd 0x20#32] := by decide

/-- V-SS-8 -/
theorem test_disable : traceOf (exec .disable (at_ .dis 1#32)) = [.w .con 0#32] := by decide

/-- V-PK-1, the chunk of it -/
theorem test_txChunk :
    traceOf (exec .txChunk (at_ .txFifo 1#32)) =
      [.w (.txdata 0) 0x000010A0#32, .w .con 1#32, .w .mtxcnt 2#32, .w .ien 0x44#32] := by decide

/-- V-PK-2, both words, and V-PK-10 -/
theorem test_packer_words :
    fifoWord (streamByte 0x50#7 2 5 [0x12#8, 0x34#8] [0xDE#8, 0xAD#8, 0xBE#8, 0xEF#8, 0x01#8]) 0 8 0 =
      some 0xDE3412A0#32 ∧
    fifoWord (streamByte 0x50#7 2 5 [0x12#8, 0x34#8] [0xDE#8, 0xAD#8, 0xBE#8, 0xEF#8, 0x01#8]) 0 8 1 =
      some 0x01EFBEAD#32 ∧
    fifoWord (streamByte 0x20#7 4 1 [0x01#8, 0x02#8, 0x03#8, 0x04#8] [0xFF#8]) 0 6 1 = some 0x0000FF04#32 := by decide

/-- V-PK-13, the second chunk: the prefix runs over into it. -/
theorem test_packer_prefix_spans_chunks :
    fifoWord (streamByte 0x2A#7 35 1 ((List.range 35).map fun k => BitVec.ofNat 8 (0xC0 + k)) [0x55#8]) 32 5 0 =
      some 0xE2E1E0DF#32 ∧
    fifoWord (streamByte 0x2A#7 35 1 ((List.range 35).map fun k => BitVec.ofNat 8 (0xC0 + k)) [0x55#8]) 32 5 1 =
      some 0x00000055#32 := by decide

/-- The `Out` words of spec/95_test_vectors.md 2.7. -/
theorem test_out_words :
    (OutMsg.result .ok).word = 0#32 ∧ (OutMsg.result .noAck).word = 1#32 ∧ (OutMsg.result .timeout).word = 2#32 ∧
    (OutMsg.report 0x50#7 .present).word = 0x80000150#32 ∧ (OutMsg.report 0x51#7 .absent).word = 0x80000051#32 := by decide

/-- A descriptor presented by a move at IDLE is accepted in the same step (spec/30_encoding.md R70); while busy it is not
taken (spec/95_test_vectors.md P6). -/
theorem test_presented_descriptor :
    upcOf (step (withEnv (State.launch (cfgWith 1#32) (bankWith noFlags)) [hosting (.present [2#32])])) =
      MicroState.code .scNext ∧
    upcOf (step (withEnv (at_ .txnInit 1#32) [hosting (.present [2#32])])) = MicroState.code .stClr := by decide

/-- An unused code of `upc` stops the machine (spec/30_encoding.md R94), a register with no value too
(spec/10_state.md R46). -/
theorem test_faults :
    faultOf (step { at_ .idle 1#32 with upc := 29#5 }) = some (.unusedCode 29#5) ∧
    faultOf (step (withSeq (at_ .ckSel 1#32) fun _ => SeqRegs.noValues)) = some (.noValue .hz) := by decide

/-- A check that finds its flag set needs no countdown; one that does not, does (spec/41_poll.md R111). -/
theorem test_check_reads_the_countdown_only_when_clear :
    isNext (exec .stChk (flagged (withSeq (at_ .stChk 1#32) fun _ => SeqRegs.noValues) { noFlags with start := true })) = true ∧
    faultOf (exec .stChk (withSeq (at_ .stChk 1#32) fun _ => SeqRegs.noValues)) = some (.noValue .countdown) := by decide

/-! ## States that meet the invariant -/

/-- Sending the one chunk of a WRTXN: about to load it. -/
def loading : State := at_ .txFifo 1#32

/-- The completion flag of that chunk was seen. -/
def completing : State :=
  withSeq (withBank (at_ .txAck 1#32) 1#32 0x44#32 2#32) fun q => { q with wordIdx := some 1#32 }

/-- The first of two chunks of a 33-byte WRTXN has completed. -/
def completingFirst : State :=
  withSeq (withBank (at_ .txAck 1#32) 1#32 0x44#32 32#32) fun q =>
    { q with p := some 32#32, r := some (List.replicate 32 0x10#8), bytesRem := some 33#32, chunkSize := some 32#32,
             wordCnt := some 8#32, wordIdx := some 8#32 }

/-- The end of a WRTXN. -/
def ending : State := withSeq (at_ .done 1#32) fun _ => { cmd := some .wrtxn }

/-- The start wait of a WRTXN: no chunk has been set up. -/
def startWait (B : Word) : State :=
  withSeq (withBank (at_ .stChk B) 0x9#32 0x10#32 0#32) fun q =>
    { q with chunkSize := none, wordCnt := none, wordIdx := none, sample := none }

/-- The stop wait of a WRTXN whose start wait timed out. -/
def stopWait (B : Word) : State :=
  withSeq (withBank (at_ .spChk B) 0x11#32 0x20#32 0#32) fun q =>
    { q with chunkSize := none, wordCnt := none, wordIdx := none, err := some (.error .timeout) }

/-- The transmit wait of the one chunk of a WRTXN. -/
def sendWait (B : Word) : State :=
  withSeq (withBank (at_ .txChk B) 0x1#32 0x44#32 2#32) fun q => { q with wordIdx := some 1#32 }

theorem loading_inv : loading.Inv := by constructor <;> decide

theorem completing_inv : completing.Inv := by constructor <;> decide

theorem completingFirst_inv : completingFirst.Inv := by constructor <;> decide

theorem ending_inv : ending.Inv := by constructor <;> decide

/-! ## Witnesses: a state and operands that meet each statement's hypotheses together -/

theorem witness_DecodeOfEncodeIsTheInstruction :
    (Instr.cfgclk 0xFFFFFFFF#32).wellFormed = true ∧ (Instr.wrtxn 0x7F#7 [] []).wellFormed = true ∧
    (Instr.reservedOp3 0x3FFFFFFF#30).wellFormed = true ∧ Instr.txWait.wellFormed = true := by decide

theorem witness_MicroStateCodesAreTheTable :
    MicroState.ofCode 0#5 = some .idle ∧ MicroState.ofCode 28#5 = some .done := by decide

/-- One accepted, one malformed, one reserved, and the empty descriptor. -/
theorem witness_PortRefusesExactlyTheMalformed :
    ((idleWith [2#32]).isAt .idle ∧ (idleWith [2#32]).port = some (2#32 :: []) ∧ opOf 2#32 ≠ 3#2) ∧
    ((idleWith [0x201#32]).port = some (0x201#32 :: []) ∧ reservedOf 0x201#32 ≠ 0#23) ∧
    ((idleWith [3#32]).port = some (3#32 :: []) ∧ opOf 3#32 = 3#2) ∧
    ((idleWith []).isAt .idle ∧ (idleWith []).port = some []) := by decide

theorem witness_ReservedOpIsRefused :
    (idleWith [0xFFFFFFFF#32]).isAt .idle ∧ (idleWith [0xFFFFFFFF#32]).port = some [0xFFFFFFFF#32] ∧
    opOf 0xFFFFFFFF#32 = 3#2 := by decide

theorem witness_StepRunsTheDecodedInstruction :
    (NoReset (at_ .done 1#32) ∧ decode (at_ .done 1#32).envTurn.fetch = .ok .done) ∧
    ((at_ .txFifo 1#32).isAt .txFifo ∧ MicroState.txFifo ≠ .idle ∧ NoReset (at_ .txFifo 1#32)) ∧
    (NoReset (idleWith [2#32]) ∧ (idleWith [2#32]).envTurn.isAt .idle ∧ (idleWith [2#32]).envTurn.port = some [2#32] ∧
      decode (.descriptor [2#32]) = .ok .scan) :=
  ⟨⟨by decide, rfl⟩, by decide, by decide, by decide, by decide, rfl⟩

theorem witness_EnvironmentOnlySetsFlagsDuringACommand :
    ¬ (withEnv loading [setting allFlags]).isAt .idle ∧ NoReset (withEnv loading [setting allFlags]) := by decide

theorem witness_ResetInputEmptiesTheSequencerOnly : (withEnv loading [hosting .reset]).envMove.host = .reset := by decide

/-- The longest request too: `P = 2^32 - 2` and `L = 0`. -/
theorem witness_AcceptanceLatchesTheOperands :
    ((idleWith [0#32, 100000#32]).isAt .idle ∧ (idleWith [0#32, 100000#32]).cfg.targetSclHz ≠ 0#32) ∧
    1 + [0x10#8].length + ([] : List Byte).length < 2 ^ 32 ∧
    (∃ r : List Byte, r.length = 2 ^ 32 - 2 ∧ 1 + r.length + ([] : List Byte).length < 2 ^ 32) :=
  ⟨by decide, by decide, List.replicate (2 ^ 32 - 2) 0#8, List.length_replicate, by
    rw [List.length_replicate]; decide⟩

theorem witness_OtherFrequenciesAreRefused :
    (idleWith []).isAt .idle ∧ (0#32 = 0#32 ∨ 0#32 ≠ (idleWith []).cfg.targetSclHz) ∧
    (400000#32 = 0#32 ∨ 400000#32 ≠ (idleWith []).cfg.targetSclHz) := by decide

/-- Busy; at IDLE with another descriptor at the port already; and a host write of `IPD` at IDLE. -/
theorem witness_CommandWhileBusyIsNotTaken :
    (¬ (withEnv loading [hosting (.present [2#32])]).isAt .idle ∧
      (withEnv loading [hosting (.present [2#32])]).envMove.host = .present [2#32]) ∧
    ((withEnv (idleWith [0#32]) [hosting (.present [2#32])]).isAt .idle ∧
      (withEnv (idleWith [0#32]) [hosting (.present [2#32])]).envMove.host = .present [2#32]) ∧
    ((withEnv (idleWith []) [hosting (.poke .ipd 0x7F#32)]).isAt .idle ∧
      (withEnv (idleWith []) [hosting (.poke .ipd 0x7F#32)]).envMove.host = .poke .ipd 0x7F#32) := by decide

theorem witness_IdleTakesTheCommandAtThePort :
    ((State.launch (cfgWith 1#32) (bankWith noFlags)).isAt .idle ∧
      (State.launch (cfgWith 1#32) (bankWith noFlags)).port = none) ∧
    ((idleWith [2#32]).isAt .idle ∧ (idleWith [2#32]).port = some [2#32] ∧
      decode (.descriptor [2#32]) = .ok .scan) := ⟨by decide, by decide, by decide, rfl⟩

theorem witness_ClockConfiguratorStores :
    (withSeq (at_ .ckSel 1#32) fun q => { q with hz := some 100000#32 }).seq.hz = some 100000#32 := by decide

theorem witness_DefaultDivisorIsTheLeastTotal : 0 < 1 ∧ 2 ≤ 8 ∧ 24000000 ≤ 8 * 30 * 100000 := by decide

/-- A small request, and the longest one. -/
theorem witness_TxnInitStartsTheTransaction :
    ((at_ .txnInit 1#32).seq.p = some 1#32 ∧ (at_ .txnInit 1#32).seq.l = some 0#32 ∧
      1 + (1#32).toNat + (0#32).toNat < 2 ^ 32) ∧
    ((withSeq (at_ .txnInit 1#32) fun q => { q with p := some 0xFFFFFFFE#32 }).seq.p = some 0xFFFFFFFE#32 ∧
      1 + (0xFFFFFFFE#32).toNat + (0#32).toNat < 2 ^ 32) := by decide

theorem witness_RetReportsTheFirstError :
    ((at_ .ret 1#32).seq.err = some .noError ∧ (at_ .ret 1#32).seq.cmd = some .wrtxn) ∧
    ((withSeq (at_ .ret 1#32) fun q => { q with cmd := some .scan, err := some (.error .noAck) }).seq.err =
        some (.error .noAck) ∧
      (withSeq (at_ .ret 1#32) fun q => { q with cmd := some .scan }).seq.cmd = some .scan ∧
      (withSeq (at_ .ret 1#32) fun q => { q with cmd := some .scan }).seq.devaddr = some 0x50#7) := by decide

theorem witness_StartControllerStores : (at_ .stClr 1#32).cfg.layout.wf = true := by decide

theorem witness_StopControllerStores : (at_ .spClr 1#32).cfg.layout.wf = true := by decide

/-- At both ends of the countdown. -/
theorem witness_SingleFlagCheckDecides :
    (at_ .stChk 0#32).cfg.layout.wf = true ∧
    ((at_ .stChk 0#32).seq.countdown = some 0#32 ∧ (at_ .stChk 0#32).seq.err = some .noError) ∧
    (at_ .spChk 0xFFFFFFFF#32).seq.countdown = some 0xFFFFFFFF#32 ∧
    (at_ .spChk 0xFFFFFFFF#32).seq.err = some .noError := by decide

/-- Bits 0 and 31 are no flag's. -/
theorem witness_IpdReadShowsTheFlags :
    loading.cfg.layout.wf = true ∧ (∀ f : Flag, 0 ≠ loading.cfg.layout.pos f) ∧
    (∀ f : Flag, 31 ≠ loading.cfg.layout.pos f) :=
  ⟨by decide, fun f => by cases f <;> decide, fun f => by cases f <;> decide⟩

theorem witness_AcknowledgeClearsTheSeenFlag :
    (at_ .stAck 1#32).cfg.layout.wf = true ∧ (at_ .stAck 1#32).seq.bytesRem = some 2#32 := by decide

theorem witness_QuantumDelaysAndCountsDown :
    ((at_ .stDly 1#32).seq.countdown = some 1#32 ∧ 1#32 ≠ 0#32) ∧
    ((at_ .txDly 0xFFFFFFFF#32).seq.countdown = some 0xFFFFFFFF#32 ∧ 0xFFFFFFFF#32 ≠ 0#32) := by decide

theorem witness_FifoLoadStoresOneWord :
    loading.seq.wordIdx = some 0#32 ∧ loading.seq.wordCnt = some 1#32 ∧ loading.seq.devaddr = some 0x50#7 ∧
    loading.seq.p = some 1#32 ∧ loading.seq.l = some 0#32 ∧ loading.seq.r = some [0x10#8] ∧
    loading.seq.d = some [] ∧ loading.seq.streamOff = some 0#32 ∧ loading.seq.chunkSize = some 2#32 ∧
    (0#32).toNat < loading.cfg.fifoWords ∧
    fifoWord (streamByte 0x50#7 1 0 [0x10#8] []) 0 2 0 = some 0x000010A0#32 := by decide

theorem witness_TriggerStores : (at_ .txCnt 1#32).seq.chunkSize = some 2#32 := by decide

theorem witness_TransmitCheckDecides :
    (at_ .txChk 0#32).cfg.layout.wf = true ∧
    ((at_ .txChk 0#32).seq.countdown = some 0#32 ∧ (at_ .txChk 0#32).seq.err = some .noError) ∧
    ((at_ .txChk 1#32).seq.countdown = some 1#32 ∧ (at_ .txChk 1#32).seq.err = some .noError) := by decide

theorem witness_NackIsRecordedAndTheWaitGoesOn :
    (at_ .txNak 0#32).cfg.layout.wf = true ∧ (at_ .txNak 0#32).seq.sample = some 0#32 ∧
    (at_ .txNak 0#32).seq.countdown = some 0#32 ∧ (at_ .txNak 0#32).seq.err = some .noError := by decide

/-- After an error; on the last chunk; with a chunk to come; and at the longest request. -/
theorem witness_CompletionAdvancesOrUnwinds :
    completing.cfg.layout.wf = true ∧
    (withSeq completing fun q => { q with err := some (.error .noAck) }).seq.err = some (.error .noAck) ∧
    (completing.seq.err = some .noError ∧ completing.seq.bytesRem = some 2#32 ∧
      completing.seq.streamOff = some 0#32 ∧ completing.seq.chunkSize = some 2#32 ∧ 2#32 ≤ 2#32 ∧
      (0#32).toNat + (2#32).toNat < 2 ^ 32) ∧
    (completingFirst.seq.err = some .noError ∧ completingFirst.seq.bytesRem = some 33#32 ∧
      completingFirst.seq.streamOff = some 0#32 ∧ completingFirst.seq.chunkSize = some 32#32 ∧ 32#32 ≤ 33#32 ∧
      (0#32).toNat + (32#32).toNat < 2 ^ 32) ∧
    (0xFFFFFFFE#32).toNat + (1#32).toNat < 2 ^ 32 := by decide

theorem witness_ScanProbesAndAdvances :
    (withSeq (at_ .scDly 1#32) fun q => { q with scanAddr := some 0x77#8 }).seq.scanAddr = some 0x77#8 ∧
    0x77#8 ≤ 0x77#8 ∧ 0x03#8 ≤ 0x77#8 ∧ 0x00#8 ≤ 0x77#8 := by decide

theorem witness_PollEndsAcknowledgedOrTimedOut :
    (at_ .stChk 1#32).seq.countdown = some 1#32 ∧ (at_ .stChk 1#32).seq.err = some .noError ∧
    (at_ .stChk 1#32).seq.bytesRem = some 2#32 ∧ NoResetWithin (2 * (1#32).toNat + 2) (at_ .stChk 1#32) := by
  unfold NoResetWithin; decide

/-- All three waits at once, from a countdown of 1; and the smallest wait, from a countdown of 0. -/
theorem witness_TimedOutWaitHasOneMoreCheckThanDelays :
    let ok := fun (s : State) (n : Word) =>
      s.cfg.layout.wf = true ∧ s.seq.countdown = some n ∧ s.seq.err = some .noError ∧ s.bank.ipd = noFlags ∧
      NoResetWithin (3 * n.toNat + 1) s ∧ NoResetWithin (2 * n.toNat) s ∧ NotSetBetween .start 0 (2 * n.toNat) s ∧
      NotSetBetween .stop 0 (2 * n.toNat) s ∧ NotSetBetween .mbtf 0 (3 * n.toNat + 1) s
    ok (at_ .stChk 1#32) 1#32 ∧ ok (at_ .txChk 0#32) 0#32 := by
  refine ⟨⟨by decide, by decide, by decide, by decide, by unfold NoResetWithin; decide, by unfold NoResetWithin; decide,
    fun k _ h => ?_, fun k _ h => ?_, fun k _ h => ?_⟩, by decide, by decide, by decide, by decide,
    by unfold NoResetWithin; decide, by unfold NoResetWithin; decide, fun k _ h => ?_, fun k _ h => ?_, fun k _ h => ?_⟩
    <;> revert k <;> decide

/-- The three waits of a WRTXN as a run meets them, each in a state that meets the invariant: the start wait, where no
chunk is set up yet; the stop wait after a start timeout, where none ever was; and the transmit wait. The flag is set
before the first check; in either turn between the first check and the last one; and in the second quantum of two. -/
theorem witness_FlagSeenAtTheLastCheckIsAcknowledged :
    let up := setting { noFlags with start := true, stop := true, mbtf := true }
    let on := fun s : State => flagged s { noFlags with start := true, stop := true, mbtf := true }
    let early := fun s : State => withEnv s (up :: List.replicate 4 EnvMove.still)
    let late := fun s : State => withEnv s (EnvMove.still :: up :: List.replicate 4 EnvMove.still)
    let second := fun s : State => withEnv s ([EnvMove.still, EnvMove.still, up] ++ List.replicate 4 EnvMove.still)
    ((startWait 1#32).Inv ∧ (stopWait 1#32).Inv ∧ (sendWait 1#32).Inv) ∧
    ((startWait 1#32).cfg.layout.wf = true ∧ (startWait 1#32).seq.countdown = some 1#32 ∧
      (startWait 1#32).seq.err = some .noError ∧ (startWait 1#32).seq.bytesRem = some 2#32) ∧
    ((stopWait 1#32).cfg.layout.wf = true ∧ (stopWait 1#32).seq.countdown = some 1#32 ∧
      (stopWait 1#32).seq.err = some (.error .timeout)) ∧
    ((sendWait 1#32).cfg.layout.wf = true ∧ (sendWait 1#32).seq.countdown = some 1#32 ∧
      (sendWait 1#32).seq.err = some .noError ∧ (sendWait 1#32).seq.bytesRem = some 2#32 ∧
      (sendWait 1#32).seq.streamOff = some 0#32 ∧ (sendWait 1#32).seq.chunkSize = some 2#32) ∧
    (0 ≤ (0#32).toNat ∧ NoResetWithin (2 * 0 + 1) (on (startWait 0#32)) ∧ SeenFirstAt .start 0 (on (startWait 0#32)) ∧
      NoResetWithin (2 * 0 + 1) (on (stopWait 0#32)) ∧ SeenFirstAt .stop 0 (on (stopWait 0#32)) ∧
      NoResetWithin (2 * 0 + 1) (on (sendWait 0#32)) ∧ SeenFirstAt .mbtf 0 (on (sendWait 0#32)) ∧
      (on (sendWait 0#32)).bank.ipd.nakrcv = false ∧ NotSetBetween .nakrcv 0 (2 * 0) (on (sendWait 0#32))) ∧
    (1 ≤ (1#32).toNat ∧ NoResetWithin (2 * 1 + 1) (early (startWait 1#32)) ∧
      SeenFirstAt .start 1 (early (startWait 1#32)) ∧ NoResetWithin (2 * 1 + 1) (late (stopWait 1#32)) ∧
      SeenFirstAt .stop 1 (late (stopWait 1#32)) ∧ NoResetWithin (2 * 1 + 1) (late (sendWait 1#32)) ∧
      SeenFirstAt .mbtf 1 (late (sendWait 1#32)) ∧ (late (sendWait 1#32)).bank.ipd.nakrcv = false ∧
      NotSetBetween .nakrcv 0 (2 * 1) (late (sendWait 1#32))) ∧
    (2 ≤ (2#32).toNat ∧ NoResetWithin (2 * 2 + 1) (second (startWait 2#32)) ∧
      SeenFirstAt .start 2 (second (startWait 2#32))) := by
  unfold NoResetWithin
  refine ⟨⟨by constructor <;> decide, by constructor <;> decide, by constructor <;> decide⟩, by decide, by decide,
    by decide, ⟨by decide, by decide, by unfold SeenFirstAt; decide, by decide, by unfold SeenFirstAt; decide, by decide,
    by unfold SeenFirstAt; decide, by decide, fun k _ h => ?_⟩, ⟨by decide, by decide,
    ⟨by decide, fun k _ h => ?_, by decide⟩, by decide, ⟨by decide, fun k _ h => ?_, by decide⟩, by decide,
    ⟨by decide, fun k _ h => ?_, by decide⟩, by decide, fun k _ h => ?_⟩, by decide, by decide, by decide,
    fun k _ h => ?_, by decide⟩
    <;> revert k <;> decide

theorem witness_SendStartCompletes :
    (at_ .stClr 1#32).seq.err = some .noError ∧ (at_ .stClr 1#32).seq.bytesRem = some 2#32 ∧
    NoResetWithin (2 * (at_ .stClr 1#32).cfg.timeoutBudget.toNat + 5) (at_ .stClr 1#32) := by
  unfold NoResetWithin; decide

theorem witness_SendStopCompletes :
    (at_ .spClr 1#32).seq.err = some .noError ∧
    NoResetWithin (2 * (at_ .spClr 1#32).cfg.timeoutBudget.toNat + 5) (at_ .spClr 1#32) := by
  unfold NoResetWithin; decide

theorem witness_TxChunkLoadsEveryWordAndTriggers :
    loading.seq.wordIdx = some 0#32 ∧ loading.seq.wordCnt = some 1#32 ∧ loading.seq.devaddr = some 0x50#7 ∧
    loading.seq.p = some 1#32 ∧ loading.seq.l = some 0#32 ∧ loading.seq.r = some [0x10#8] ∧
    loading.seq.d = some [] ∧ loading.seq.streamOff = some 0#32 ∧ loading.seq.chunkSize = some 2#32 ∧
    [0x10#8].length = (1#32).toNat ∧ ([] : List Byte).length = (0#32).toNat ∧
    (0#32).toNat + (2#32).toNat ≤ 1 + (1#32).toNat + (0#32).toNat ∧ 0#32 < 1#32 ∧
    (1#32).toNat ≤ loading.cfg.fifoWords ∧ loading.bank.txdata.length = loading.cfg.fifoWords ∧
    NoResetWithin ((1#32).toNat - (0#32).toNat + 2) loading := by
  unfold NoResetWithin; decide

theorem witness_TxWaitAdvancesOrRecordsTheFirstError :
    (at_ .txChk 1#32).seq.countdown = some 1#32 ∧ (at_ .txChk 1#32).seq.err = some .noError ∧
    (at_ .txChk 1#32).seq.bytesRem = some 2#32 ∧ (at_ .txChk 1#32).seq.streamOff = some 0#32 ∧
    (at_ .txChk 1#32).seq.chunkSize = some 2#32 ∧ NoResetWithin (3 * (1#32).toNat + 3) (at_ .txChk 1#32) := by
  unfold NoResetWithin; decide

theorem witness_OperationsAreRunsOfMicroOperations :
    Instr.txWait ∈ [Instr.sendStart, .pollStart, .txChunk, .txWait, .sendStop, .pollStop, .disable] := by decide

/-- The chunk is the whole stream; lane 1 of word 0 is in it, lane 2 past it. -/
theorem witness_WordLanesAreStreamBytes :
    0 + 2 ≤ 1 + [0x10#8].length + ([] : List Byte).length ∧ 1 < 4 ∧ 4 * 0 + 1 < 2 ∧ 2 < 4 ∧ ¬ 4 * 0 + 2 < 2 := by decide

theorem witness_FirstByteIsTheAddress :
    loading.Inv ∧ loading.isAt .txFifo ∧ loading.seq.wordIdx = some 0#32 ∧ loading.seq.streamOff = some 0#32 ∧
    loading.seq.devaddr = some 0x50#7 ∧ ∃ t, exec .txFifo loading = .next t :=
  ⟨loading_inv, by decide, by decide, by decide, by decide, _, rfl⟩

theorem witness_ProbeIsOneChunkOfTwoBytes : 4 ≤ 4 ∧ 4 ≤ 32 := by decide

/-- The last chunk, and the first of two. -/
theorem witness_ChunkCountIsTheCeiling :
    (completing.Inv ∧ completing.isAt .txAck ∧ NoReset completing ∧ completing.seq.err = some .noError ∧
      completing.seq.streamOff = some 0#32 ∧ completing.seq.chunkSize = some 2#32 ∧
      (∃ t, step completing = .next t) ∧
      0 / completing.cfg.fifoDepthBytes + 1 = ceilDiv completing.seq.total completing.cfg.fifoDepthBytes) ∧
    (completingFirst.Inv ∧ completingFirst.isAt .txAck ∧ NoReset completingFirst ∧
      completingFirst.seq.err = some .noError ∧ completingFirst.seq.streamOff = some 0#32 ∧
      completingFirst.seq.chunkSize = some 32#32 ∧ (∃ t, step completingFirst = .next t) ∧
      0 / completingFirst.cfg.fifoDepthBytes + 1 ≠
        ceilDiv completingFirst.seq.total completingFirst.cfg.fifoDepthBytes) :=
  ⟨⟨completing_inv, by decide, by decide, by decide, by decide, by decide, ⟨_, rfl⟩, by decide⟩,
    completingFirst_inv, by decide, by decide, by decide, by decide, by decide, ⟨_, rfl⟩, by decide⟩

theorem witness_RecordKeepsTheFirstError :
    loading.seq.err = some .noError ∧
    (withSeq loading fun q => { q with err := some (.error .noAck) }).seq.err = some (.error .noAck) := by decide

theorem witness_InvariantHoldsAtLaunch :
    instantiate (cfgWith 1#32) (bankWith noFlags) = some (State.launch (cfgWith 1#32) (bankWith noFlags)) := by rfl

theorem witness_InvariantIsKeptByEveryStep : loading.Inv ∧ ∃ t, step loading = .next t := ⟨loading_inv, _, rfl⟩

theorem witness_NoFaultIsReachable : ending.Inv := ending_inv

theorem witness_OnlyTheCommandPortRefuses : step (idleWith [3#32]) = .refused .reservedOp := by rfl

theorem witness_EveryCommandComesToIdle : completingFirst.Inv := completingFirst_inv

theorem witness_SuccessorsAreTheTables :
    (at_ .txChk 0#32).isAt .txChk ∧ NoReset (at_ .txChk 0#32) ∧ ∃ t, step (at_ .txChk 0#32) = .next t :=
  ⟨by decide, by decide, _, rfl⟩

/-- A micro-step with an event and one without. -/
theorem witness_OneEventPerMicroStep :
    (¬ loading.isAt .idle ∧ NoReset loading ∧ (∃ t, step loading = .next t) ∧
      ¬ loading.within [.txnInit, .scNext, .done]) ∧
    (¬ ending.isAt .idle ∧ NoReset ending ∧ (∃ t, step ending = .next t) ∧ ending.within [.txnInit, .scNext, .done]) :=
  ⟨⟨by decide, by decide, ⟨_, rfl⟩, by decide⟩, by decide, by decide, ⟨_, rfl⟩, by decide⟩

def nextOf : Answer → State
  | .next t => t
  | _ => State.launch (cfgWith 1#32) (bankWith noFlags)

/-- One state for each clause: its register does change, its flag is cleared. -/
theorem witness_BankRegistersAreWrittenOnlyWhereTheTableSays :
    (¬ (at_ .stCon 1#32).isAt .idle ∧ (nextOf (step (at_ .stCon 1#32))).bank.con ≠ (at_ .stCon 1#32).bank.con) ∧
    (nextOf (step (at_ .txIen 1#32))).bank.ien ≠ (at_ .txIen 1#32).bank.ien ∧
    (let s := withSeq (at_ .ckDiv 1#32) (fun q => { q with hz := some 100000#32 });
      (nextOf (step s)).bank.clkdiv ≠ s.bank.clkdiv) ∧
    (nextOf (step (at_ .txCnt 1#32))).bank.mtxcnt ≠ (at_ .txCnt 1#32).bank.mtxcnt ∧
    (nextOf (step loading)).bank.txdata ≠ loading.bank.txdata ∧
    (let s := flagged (at_ .spClr 1#32) allFlags;
      s.bank.ipd.nakrcv = true ∧ (nextOf (step s)).bank.ipd.nakrcv = false ∧ s.cfg.layout.wf = true) ∧
    (let s := withSeq (at_ .ckSel 1#32) (fun q => { q with hz := some 100000#32 });
      NoReset s ∧ (nextOf (step s)).clkSelStores.length ≠ s.clkSelStores.length) ∧
    (NoReset (at_ .stCon 1#32) ∧ ¬ (at_ .stCon 1#32).isAt .ckSel) := by decide

theorem witness_FirstErrorStays :
    let s := withSeq (at_ .txChk 0#32) fun q => { q with err := some (.error .noAck) }
    ¬ s.isAt .idle ∧ NoReset s ∧ (∃ t, step s = .next t) ∧ s.seq.err = some (.error .noAck) ∧
    ¬ s.within [.txnInit, .ret, .done] := ⟨by decide, by decide, ⟨_, rfl⟩, by decide, by decide⟩

theorem witness_RequestIsImmutable :
    loading.within txnStates ∧ ¬ loading.isAt .ret ∧ NoReset loading ∧ ∃ t, step loading = .next t :=
  ⟨by decide, by decide, by decide, _, rfl⟩

theorem witness_CommandEndsDisabled :
    ending.Inv ∧ ending.isAt .done ∧ NoReset ending ∧ ending.seq.cmd ≠ some .cfgclk :=
  ⟨ending_inv, by decide, by decide, by decide⟩

theorem witness_OnlyIpdOfTheBankIsRead :
    let b : Bank := { loading.bank with con := 0xFFFFFFFF#32, ien := 1#32, txdata := [] }
    b.ipd = loading.bank.ipd ∧ b.ipdOther = loading.bank.ipdOther ∧ b ≠ loading.bank := by decide

end Sys2Proof.Tests
end

section
/-! PROOFS. The step of a busy block as a row of the transition table, and what each row appends to `TRACE`. -/

namespace Sys2Proof.Machine

/-! ## The step -/

/-- The busy block is at no other micro-state than the one it is at. -/
theorem not_isAt_of_isAt {s : State} {m m' : MicroState} (h : s.isAt m) (hne : m ≠ m') : ¬ s.isAt m' :=
  fun h' => hne (MicroState.code_inj.1 (h.symm.trans h'))

/-- `upc <- m` is at `m`, and nowhere else. -/
@[simp] theorem goto_isAt {s : State} {m m' : MicroState} : (s.goto m).isAt m' ↔ m = m' := MicroState.code_inj

theorem not_isAt_goto {m m' : MicroState} (hne : m ≠ m') (s : State) : ¬ (s.goto m).isAt m' := mt goto_isAt.1 hne

/-- Settles O6: the turn leaves `upc` and an idle block's port where the fetch finds them. -/
theorem stepRunsTheDecodedInstruction : Obligations.StepRunsTheDecodedInstruction := by
  unfold Obligations.StepRunsTheDecodedInstruction
  refine ⟨fun s i hr hd => ?_, fun s m hm hne hr => ?_, fun s ws i hr hi hp hd => ?_⟩
  · rw [step_of_noReset s hr, runFetched, hd]
  · have hb : ¬ s.isAt .idle := not_isAt_of_isAt hm hne
    rw [step_at hm hne hr, envTurn_of_busy s hb hr]
  · have hf : s.envTurn.fetch = .descriptor ws := by simp [State.fetch, hp, hi]
    rw [step_of_noReset s hr, runFetched, hf, hd]

/-! ## One event per micro-step -/

/-- A next state, if the answer is one, has exactly one event more than `s`. -/
def AppendsOne (s : State) (o : Answer) : Prop := ∀ t, o = .next t → ∃ e, t.trace = s.trace ++ [e]

theorem AppendsOne.next {s t : State} (e : Event) (h : t.trace = s.trace ++ [e]) : AppendsOne s (.next t) := by
  rintro _ ⟨⟩
  exact ⟨e, h⟩

theorem AppendsOne.fault (s : State) (r : Fault) : AppendsOne s (.fault r) := by
  rintro _ ⟨⟩

theorem AppendsOne.need {α : Type} {s : State} (reg : SeqReg) (x : Option α) {k : α → Answer}
    (h : ∀ a, AppendsOne s (k a)) : AppendsOne s (need reg x k) := by
  cases x with
  | none => exact .fault s _
  | some a => exact h a

theorem AppendsOne.ifSeen {s t : State} {o : Answer} (b : Bool) (ht : AppendsOne s (.next t)) (ho : AppendsOne s o) :
    AppendsOne s (ifSeen b t o) := by
  rw [ifSeen_eq]
  split
  · exact ht
  · exact ho

theorem storeStep_appendsOne (reg : Reg) (v : Word) (m : MicroState) (s : State) :
    AppendsOne s (storeStep reg v m s) := .next (.w reg v) rfl

theorem armStep_appendsOne (v : Word) (m : MicroState) (s : State) : AppendsOne s (armStep v m s) :=
  .next (.w .ien v) rfl

theorem quantumStep_appendsOne (m : MicroState) (s : State) : AppendsOne s (quantumStep m s) :=
  .need _ _ fun _ => .next (.dly pollQuantumUs) rfl

/-- A sample that ends a check is its one event. -/
theorem sampleIpd_goto_appendsOne (m : MicroState) (s : State) : AppendsOne s (.next (s.sampleIpd.goto m)) :=
  .next (.rd .ipd s.ipdWord) rfl

theorem orTimeout_appendsOne (timedOut again : MicroState) (s : State) :
    AppendsOne s (s.sampleIpd.orTimeout timedOut again) := by
  refine .need _ _ fun n => ?_
  split
  · exact .need _ _ fun x => .next (.rd .ipd s.ipdWord) rfl
  · exact sampleIpd_goto_appendsOne again s

theorem checkStep_appendsOne (f : Flag) (found timedOut again : MicroState) (s : State) :
    AppendsOne s (checkStep f found timedOut again s) :=
  .ifSeen _ (sampleIpd_goto_appendsOne found s) (orTimeout_appendsOne timedOut again s)

theorem execTxChk_appendsOne (s : State) : AppendsOne s (execTxChk s) :=
  .ifSeen _ (sampleIpd_goto_appendsOne .txNak s)
    (.ifSeen _ (sampleIpd_goto_appendsOne .txAck s) (orTimeout_appendsOne .spClr .txDly s))

theorem txdataWrite_appendsOne {s : State} (i : Word) (v : Option Word) {k : State → Answer}
    (hk : ∀ w, AppendsOne s (k (s.regWrite (.txdata i.toNat) w))) : AppendsOne s (txdataWrite i v s k) := by
  unfold txdataWrite
  split
  · cases v with
    | some w => exact hk w
    | none => exact .fault s _
  · exact .fault s _

theorem execTxFifo_appendsOne (s : State) : AppendsOne s (execTxFifo s) :=
  .need _ _ fun i => .need _ _ fun _ => .need _ _ fun _ => .need _ _ fun _ => .need _ _ fun _ => .need _ _ fun _ =>
    .need _ _ fun _ => .need _ _ fun _ => .need _ _ fun _ =>
      txdataWrite_appendsOne i _ fun w => .next (.w (.txdata i.toNat) w) rfl

theorem execTxNak_appendsOne (s : State) : AppendsOne s (execTxNak s) := by
  refine .need _ _ fun v => .need _ _ fun x => ?_
  dsimp only
  split
  · exact .next (.w .ipd (s.cfg.layout.mask .nakrcv)) rfl
  · exact .need _ _ fun n => .next (.w .ipd (s.cfg.layout.mask .nakrcv)) rfl

/-- The advance sets registers and records nothing. -/
@[simp] theorem advance_trace (s : State) (rem off : Word) : (s.advance rem off).trace = s.trace := by
  unfold State.advance
  dsimp only
  split <;> rfl

theorem execTxAck_appendsOne (s : State) : AppendsOne s (execTxAck s) := by
  refine .need _ _ fun x => ?_
  cases x with
  | error e => exact storeStep_appendsOne _ _ _ s
  | noError =>
    exact .need _ _ fun rem => .need _ _ fun off => .need _ _ fun size =>
      .next (.w .ipd (s.cfg.layout.mask .mbtf)) (by simp)

theorem execRet_appendsOne (s : State) : AppendsOne s (execRet s) := by
  refine .need _ _ fun c => ?_
  cases c with
  | cfgclk => exact .fault s _
  | wrtxn => exact .need _ _ fun x => .next (.out (.result x.result)) rfl
  | scan => exact .need _ _ fun x => .need _ _ fun a => .next (.out (.report a x.presence)) rfl

/-- Every row of the table but IDLE and the three silent ones records one event (spec/10_state.md R25). -/
theorem exec_ofMicro_appendsOne {m : MicroState} (hm : m ∉ [.idle, .txnInit, .scNext, .done]) (s : State) :
    AppendsOne s (exec (Instr.ofMicro m) s) := by
  cases m with
  | idle | txnInit | scNext | done => simp at hm
  | ckSel => exact .need _ _ fun hz => .next (.cs (Config.clkSelValue s.cfg hz)) rfl
  | ckDiv => exact .need _ _ fun hz => storeStep_appendsOne _ _ _ s
  | stClr | stCon | spClr | spCon | spAck | dis | txCon => exact storeStep_appendsOne _ _ _ s
  | stIen | spIen | txIen => exact armStep_appendsOne _ _ s
  | stChk | spChk => exact checkStep_appendsOne _ _ _ _ s
  | stDly | spDly | txDly => exact quantumStep_appendsOne _ s
  | stAck => exact .need _ _ fun rem => .next (.w .ipd (s.cfg.layout.mask .start)) rfl
  | txFifo => exact execTxFifo_appendsOne s
  | txCnt => exact .need _ _ fun size => storeStep_appendsOne _ _ _ s
  | txChk => exact execTxChk_appendsOne s
  | txNak => exact execTxNak_appendsOne s
  | txAck => exact execTxAck_appendsOne s
  | ret => exact execRet_appendsOne s
  | scDly => exact .need _ _ fun a => .next (.dly scanDelayUs) rfl

/-- The three silent rows record nothing. -/
theorem exec_ofMicro_trace_of_silent {m : MicroState} (hm : m ∈ [.txnInit, .scNext, .done]) {s t : State}
    (h : exec (Instr.ofMicro m) s = .next t) : t.trace = s.trace := by
  simp only [List.mem_cons, List.not_mem_nil, or_false] at hm
  rcases hm with rfl | rfl | rfl
  · obtain ⟨p, -, h⟩ := need_eq_next.1 h
    obtain ⟨l, -, h⟩ := need_eq_next.1 h
    cases h
    rfl
  · obtain ⟨a, -, h⟩ := need_eq_next.1 h
    cases h
    rfl
  · cases h
    rfl

/-- The decoder of `upc` inverts the codes. -/
theorem code_of_ofCode {c : BitVec 5} {m : MicroState} (h : MicroState.ofCode c = some m) : m.code = c := by
  have table : ∀ c : BitVec 5, ((MicroState.ofCode c).all fun m => m.code == c) = true := by decide
  have hc := table c
  rw [h] at hc
  exact eq_of_beq hc

/-- Without a reset, a step of a busy block that answers a next state is the row of its micro-state. -/
theorem step_busy_eq_next {s t : State} (hb : ¬ s.isAt .idle) (hr : NoReset s) (h : step s = .next t) :
    ∃ m, m ≠ .idle ∧ s.isAt m ∧ exec (Instr.ofMicro m) (s.ctlMove s.envMove) = .next t := by
  cases hc : MicroState.ofCode s.upc with
  | some m =>
    have hm : s.isAt m := (code_of_ofCode hc).symm
    have hne : m ≠ .idle := by rintro rfl; exact hb hm
    exact ⟨m, hne, hm, (step_at hm hne hr).symm.trans h⟩
  | none =>
    have hd : decode (s.ctlMove s.envMove).fetch = .error (.unusedMicroCode s.upc) := by
      rw [fetch_of_busy (s.ctlMove s.envMove) hb]
      simp [decode, decodeMicro, hc]
    rw [step_of_noReset s hr, envTurn_of_busy s hb hr, runFetched, hd] at h
    cases h

/-- Settles O54, row by row of the transition table. -/
theorem oneEventPerMicroStep : Obligations.OneEventPerMicroStep := by
  unfold Obligations.OneEventPerMicroStep
  intro s t hb hr h
  obtain ⟨m, hne, hm, hx⟩ := step_busy_eq_next hb hr h
  have hs : s.within [.txnInit, .scNext, .done] ↔ m ∈ [.txnInit, .scNext, .done] := by
    simp [State.within, show s.upc = m.code from hm]
  split
  next hw => exact exec_ofMicro_trace_of_silent (s := s.ctlMove s.envMove) (hs.1 hw) hx
  next hw =>
    exact exec_ofMicro_appendsOne (List.not_mem_cons_of_ne_of_not_mem hne (mt hs.2 hw)) (s.ctlMove s.envMove) t hx

end Sys2Proof.Machine
end

section
/-! PROOFS. Every operation is a run of the machine; the three waits are one loop. -/

namespace Sys2Proof.Machine

/-! ## Operations as runs of the machine -/

/-- The answer `o` is what `o'` and some number of further steps of the machine answer. -/
def IsRunOf (o o' : Answer) : Prop := ∃ k, o = continueFor k o'

/-- In the machine, `f` after the environment's turn at micro-state `m` is some number of steps. -/
def RunsAt (m : MicroState) (f : State → Answer) : Prop := ∀ t, t.isAt m → IsRunOf (afterEnv t f) (.next t)

/-- The first of the steps, and the others after it. -/
theorem core_run_succ (k : Nat) (s : State) : core.run (k + 1) s = continueFor k (step s) := by
  refine (Host.Core.run.eq_2 core s k).trans ?_
  change _ = continueFor k (core.step s)
  cases core.step s <;> rfl

theorem core_run_add (j k : Nat) (s : State) : core.run (j + k) s = continueFor k (core.run j s) := by
  induction j generalizing s with
  | zero => rw [Nat.zero_add]; rfl
  | succ j ih =>
    rw [Nat.succ_add, core_run_succ, core_run_succ]
    cases step s with
    | next t => exact ih t
    | fault r => rfl
    | refused r => rfl

@[simp] theorem continueFor_zero (o : Answer) : continueFor 0 o = o := by
  cases o <;> rfl

theorem IsRunOf.refl (o : Answer) : IsRunOf o o := ⟨0, (continueFor_zero o).symm⟩

theorem continueFor_continueFor (j k : Nat) (o : Answer) : continueFor k (continueFor j o) = continueFor (j + k) o := by
  cases o with
  | next t => exact (core_run_add j k t).symm
  | fault r => rfl
  | refused r => rfl

theorem IsRunOf.trans {o o' o'' : Answer} (h : IsRunOf o o') (h' : IsRunOf o' o'') : IsRunOf o o'' := by
  obtain ⟨k, rfl⟩ := h
  obtain ⟨j, rfl⟩ := h'
  exact ⟨j + k, continueFor_continueFor j k o''⟩

/-- A micro-operation after the environment's turn is one step. -/
theorem runsAt_exec_ofMicro {m : MicroState} (hm : m ≠ .idle) : RunsAt m (exec (Instr.ofMicro m)) := by
  intro t ht
  refine ⟨1, ?_⟩
  have hstep : continueFor 1 (.next t) = step t := by
    rw [continueFor, core_run_succ, continueFor_zero]
  rw [hstep]
  by_cases hr : t.envMove.host = .reset
  · rw [afterEnv_of_reset t _ hr, step_of_reset t hr]
  · rw [afterEnv_of_noReset t _ hr, step_at ht hm hr, envTurn_of_busy t (not_isAt_of_isAt ht hm) hr]

/-- Sequencing goes on with steps of the machine. -/
theorem isRunOf_thenAt {o o' : Answer} {m : MicroState} {f : State → Answer} (ho : IsRunOf o o') (hf : RunsAt m f) :
    IsRunOf (thenAt o m f) o' := by
  cases o with
  | next t =>
    by_cases ht : t.isAt m
    · rw [thenAt_at f ht]
      exact (hf t ht).trans ho
    · rwa [thenAt_not_at f ht]
  | fault r => exact ho
  | refused r => exact ho

/-- A turn before a sequence is a turn before its first part: a reset leaves the block at IDLE, where no sequence goes
on. -/
theorem afterEnv_thenAt {m : MicroState} (hm : m ≠ .idle) (t : State) (f g : State → Answer) :
    afterEnv t (fun u => thenAt (f u) m g) = thenAt (afterEnv t f) m g := by
  by_cases hr : t.envMove.host = .reset
  · have hi : t.envTurn.isAt .idle := by rw [envTurn_of_reset t hr]; rfl
    rw [afterEnv_of_reset t _ hr, afterEnv_of_reset t _ hr, thenAt_not_at g (not_isAt_of_isAt hi hm.symm)]
  · rw [afterEnv_of_noReset t _ hr, afterEnv_of_noReset t _ hr]

theorem RunsAt.thenAt {m m' : MicroState} {f g : State → Answer} (hf : RunsAt m f) (hm' : m' ≠ .idle)
    (hg : RunsAt m' g) : RunsAt m fun u => thenAt (f u) m' g := by
  intro t ht
  rw [afterEnv_thenAt hm']
  exact isRunOf_thenAt (hf t ht) hg

/-- What runs on from a micro-operation runs in the machine as that does. -/
theorem RunsAt.of_isRunOf {m : MicroState} {f g : State → Answer} (hf : RunsAt m f) (h : ∀ u, IsRunOf (g u) (f u)) :
    RunsAt m g := by
  intro t ht
  refine IsRunOf.trans ?_ (hf t ht)
  by_cases hr : t.envMove.host = .reset
  · rw [afterEnv_of_reset t _ hr, afterEnv_of_reset t _ hr]
    exact .refl _
  · rw [afterEnv_of_noReset t _ hr, afterEnv_of_noReset t _ hr]
    exact h _

/-! ## The three waits as one loop -/

/-- The loop of a wait (spec/41_poll.md R111, R116) with `n` quanta left: a round of check and clears, and after a round
that ends at `again` the quantum and the loop from `retry`. -/
def waitLoop (round : State → Answer) (again retry : MicroState) : Nat → State → Answer
  | 0, s => round s
  | n + 1, s => thenAt (round s) again fun t => thenAt (quantumStep retry t) retry (waitLoop round again retry n)

/-- The round of a single-flag wait: the check, and the clear of a flag that was found. -/
def pollRound (check clear : State → Answer) (found : MicroState) (s : State) : Answer := thenAt (check s) found clear

theorem pollStartLoop_eq (n : Nat) :
    pollStartLoop n = waitLoop (pollRound execStChk execStAck .stAck) .stDly .stChk n := by
  induction n with
  | zero => rfl
  | succ n ih => funext s; rw [pollStartLoop, ih]; rfl

theorem pollStopLoop_eq (n : Nat) :
    pollStopLoop n = waitLoop (pollRound execSpChk execSpAck .spAck) .spDly .spChk n := by
  induction n with
  | zero => rfl
  | succ n ih => funext s; rw [pollStopLoop, ih]; rfl

theorem txWaitLoop_eq (n : Nat) : txWaitLoop n = waitLoop txCheck .txDly .txChk n := by
  induction n with
  | zero => rfl
  | succ n ih => funext s; rw [txWaitLoop, ih]; rfl

/-- A wait whose rounds are runs of its check is itself a run of the check. -/
theorem waitLoop_isRunOf {round check : State → Answer} {again retry : MicroState} (hretry : retry ≠ .idle)
    (hround : ∀ s, IsRunOf (round s) (check s)) (hcheck : RunsAt retry check)
    (hdelay : RunsAt again (quantumStep retry)) (n : Nat) (s : State) :
    IsRunOf (waitLoop round again retry n s) (check s) := by
  induction n generalizing s with
  | zero => exact hround s
  | succ n ih => exact isRunOf_thenAt (hround s) (hdelay.thenAt hretry (hcheck.of_isRunOf ih))

theorem pollRound_isRunOf {check clear : State → Answer} {found : MicroState} (hclear : RunsAt found clear)
    (s : State) : IsRunOf (pollRound check clear found s) (check s) := isRunOf_thenAt (.refl _) hclear

theorem txCheck_isRunOf (s : State) : IsRunOf (txCheck s) (execTxChk s) :=
  isRunOf_thenAt (isRunOf_thenAt (.refl _) (runsAt_exec_ofMicro (m := .txNak) (by decide)))
    (runsAt_exec_ofMicro (m := .txAck) (by decide))

theorem execPollStart_isRunOf (s : State) : IsRunOf (execPollStart s) (execStChk s) := by
  rw [execPollStart, pollStartLoop_eq]
  exact waitLoop_isRunOf (by decide) (pollRound_isRunOf (runsAt_exec_ofMicro (m := .stAck) (by decide)))
    (runsAt_exec_ofMicro (m := .stChk) (by decide)) (runsAt_exec_ofMicro (m := .stDly) (by decide)) _ s

theorem execPollStop_isRunOf (s : State) : IsRunOf (execPollStop s) (execSpChk s) := by
  rw [execPollStop, pollStopLoop_eq]
  exact waitLoop_isRunOf (by decide) (pollRound_isRunOf (runsAt_exec_ofMicro (m := .spAck) (by decide)))
    (runsAt_exec_ofMicro (m := .spChk) (by decide)) (runsAt_exec_ofMicro (m := .spDly) (by decide)) _ s

theorem execTxWait_isRunOf (s : State) : IsRunOf (execTxWait s) (execTxChk s) := by
  rw [execTxWait, txWaitLoop_eq]
  exact waitLoop_isRunOf (by decide) txCheck_isRunOf
    (runsAt_exec_ofMicro (m := .txChk) (by decide)) (runsAt_exec_ofMicro (m := .txDly) (by decide)) _ s

theorem execSendStart_isRunOf (s : State) : IsRunOf (execSendStart s) (execStClr s) :=
  isRunOf_thenAt (isRunOf_thenAt (isRunOf_thenAt (.refl _) (runsAt_exec_ofMicro (m := .stCon) (by decide)))
    (runsAt_exec_ofMicro (m := .stIen) (by decide)))
    ((runsAt_exec_ofMicro (m := .stChk) (by decide)).of_isRunOf execPollStart_isRunOf)

theorem execSendStop_isRunOf (s : State) : IsRunOf (execSendStop s) (execSpClr s) :=
  isRunOf_thenAt (isRunOf_thenAt (isRunOf_thenAt (.refl _) (runsAt_exec_ofMicro (m := .spCon) (by decide)))
    (runsAt_exec_ofMicro (m := .spIen) (by decide)))
    ((runsAt_exec_ofMicro (m := .spChk) (by decide)).of_isRunOf execPollStop_isRunOf)

/-- The FIFO load is its first store and further ones. -/
theorem fifoLoad_isRunOf (n : Nat) (s : State) : IsRunOf (fifoLoad n s) (execTxFifo s) := by
  induction n generalizing s with
  | zero => exact .refl _
  | succ n ih => exact isRunOf_thenAt (.refl _) ((runsAt_exec_ofMicro (m := .txFifo) (by decide)).of_isRunOf ih)

/-- `txChunk` reads the two indices before its first TX_FIFO does, and so stops where that stops. -/
theorem execTxChunk_isRunOf (s : State) : IsRunOf (execTxChunk s) (execTxFifo s) := by
  cases hi : s.seq.wordIdx with
  | none =>
    have hc : execTxChunk s = execTxFifo s := by simp only [execTxChunk, execTxFifo, hi, need]
    exact hc ▸ .refl _
  | some i =>
    cases hn : s.seq.wordCnt with
    | none =>
      have hc : execTxChunk s = execTxFifo s := by simp only [execTxChunk, execTxFifo, hi, hn, need]
      exact hc ▸ .refl _
    | some cnt =>
      simp only [execTxChunk, hi, hn, need_some]
      exact isRunOf_thenAt (isRunOf_thenAt (isRunOf_thenAt (fifoLoad_isRunOf _ s)
        (runsAt_exec_ofMicro (m := .txCon) (by decide))) (runsAt_exec_ofMicro (m := .txCnt) (by decide)))
        (runsAt_exec_ofMicro (m := .txIen) (by decide))

/-- Settles O41, operation by operation. -/
theorem operationsAreRunsOfMicroOperations : Obligations.OperationsAreRunsOfMicroOperations := by
  unfold Obligations.OperationsAreRunsOfMicroOperations
  intro i s hi
  show IsRunOf (exec i s) (exec (firstMicroOp i) s)
  simp only [List.mem_cons, List.not_mem_nil, or_false] at hi
  rcases hi with rfl | rfl | rfl | rfl | rfl | rfl | rfl
  · exact execSendStart_isRunOf s
  · exact execPollStart_isRunOf s
  · exact execTxChunk_isRunOf s
  · exact execTxWait_isRunOf s
  · exact execSendStop_isRunOf s
  · exact execPollStop_isRunOf s
  · exact .refl _

end Sys2Proof.Machine
end

section
/-! PROOFS. What a wait keeps and where its loop ends; the single-flag polls, `sendStart` and `sendStop`. -/

namespace Sys2Proof.Machine

/-! ## The environment's coming moves -/

theorem moveAt_ctlMove (s : State) (m : EnvMove) (k : Nat) : (s.ctlMove m).moveAt k = s.moveAt (k + 1) := by
  simp only [State.moveAt, ctlMove_env, ctlMove_turn, List.drop_tail, Nat.add_assoc, Nat.add_comm 1 k]

theorem NoResetWithin.mono {j k : Nat} {s : State} (h : NoResetWithin k s) (hjk : j ≤ k) : NoResetWithin j s :=
  fun i hi => h i (hi.trans_le hjk)

theorem NoResetWithin.head {k : Nat} {s : State} (h : NoResetWithin (k + 1) s) : NoReset s := h 0 k.succ_pos

theorem NoResetWithin.ctlMove {k : Nat} {s : State} (h : NoResetWithin (k + 1) s) (m : EnvMove) :
    NoResetWithin k (s.ctlMove m) := fun i hi => by
  rw [moveAt_ctlMove]
  exact h (i + 1) (Nat.succ_lt_succ hi)

/-- Without a reset, sequencing at a busy micro-state is `Ctl`'s move and the next part. -/
theorem thenAt_busy {k : Nat} {t : State} {m : MicroState} (f : State → Answer) (hm : m ≠ .idle) (ht : t.isAt m)
    (hr : NoResetWithin (k + 1) t) : thenAt (.next t) m f = f (t.ctlMove t.envMove) := by
  rw [thenAt_at f ht, afterEnv_of_noReset t f hr.head, envTurn_of_busy t (not_isAt_of_isAt ht hm) hr.head]

/-- Sequencing does nothing after a part that never ends at its micro-state. -/
theorem thenAt_of_leaves {o : Answer} {m : MicroState} (f : State → Answer) (h : ∀ t, o = .next t → ¬ t.isAt m) :
    thenAt o m f = o := by
  cases o with
  | next t => exact thenAt_not_at f (h t rfl)
  | fault r => rfl
  | refused r => rfl

/-! ## What a wait keeps -/

/-- From `s` to `t` nothing has changed but what a wait may change: `upc`, the flags and other bits of `IPD`,
`COUNTDOWN`, `SAMPLE`, `ERR`, further events, and the record of turns. -/
structure WaitFrame (s t : State) : Prop where
  bank : ∃ ipd other, t.bank = { s.bank with ipd := ipd, ipdOther := other }
  seq : ∃ cd sm er, t.seq = { s.seq with countdown := cd, sample := sm, err := er }
  cfg : t.cfg = s.cfg
  port : t.port = s.port
  trace : s.trace <+: t.trace

namespace WaitFrame

theorem refl (s : State) : WaitFrame s s := ⟨⟨_, _, rfl⟩, ⟨_, _, _, rfl⟩, rfl, rfl, List.prefix_rfl⟩

theorem trans {s t u : State} (h : WaitFrame s t) (h' : WaitFrame t u) : WaitFrame s u := by
  obtain ⟨⟨_, _, hb⟩, ⟨_, _, _, hq⟩, hc, hp, ht⟩ := h
  obtain ⟨⟨_, _, hb'⟩, ⟨_, _, _, hq'⟩, hc', hp', ht'⟩ := h'
  rw [hb] at hb'
  rw [hq] at hq'
  exact ⟨⟨_, _, hb'⟩, ⟨_, _, _, hq'⟩, hc'.trans hc, hp'.trans hp, ht.trans ht'⟩

theorem goto (s : State) (m : MicroState) : WaitFrame s (s.goto m) :=
  ⟨⟨_, _, rfl⟩, ⟨_, _, _, rfl⟩, rfl, rfl, List.prefix_rfl⟩

theorem ctlMove (s : State) (m : EnvMove) : WaitFrame s (s.ctlMove m) :=
  ⟨⟨_, _, rfl⟩, ⟨_, _, _, rfl⟩, rfl, rfl, List.prefix_rfl⟩

theorem record (s : State) (x : ErrLatch) (e : ErrKind) : WaitFrame s (s.record x e) :=
  ⟨⟨_, _, rfl⟩, ⟨_, _, _, rfl⟩, rfl, rfl, List.prefix_rfl⟩

theorem setCountdown (s : State) (v : Word) : WaitFrame s (s.setCountdown v) :=
  ⟨⟨_, _, rfl⟩, ⟨_, _, _, rfl⟩, rfl, rfl, List.prefix_rfl⟩

theorem sampleIpd (s : State) : WaitFrame s s.sampleIpd :=
  ⟨⟨_, _, rfl⟩, ⟨_, _, _, rfl⟩, rfl, rfl, List.prefix_append _ _⟩

theorem delay (s : State) (n : Nat) : WaitFrame s (s.delay n) :=
  ⟨⟨_, _, rfl⟩, ⟨_, _, _, rfl⟩, rfl, rfl, List.prefix_append _ _⟩

theorem regWrite_ipd (s : State) (v : Word) : WaitFrame s (s.regWrite .ipd v) :=
  ⟨⟨_, _, rfl⟩, ⟨_, _, _, rfl⟩, rfl, rfl, List.prefix_append _ _⟩

variable {s t : State} (h : WaitFrame s t)
include h

theorem bank_eq : t.bank = { s.bank with ipd := t.bank.ipd, ipdOther := t.bank.ipdOther } := by
  obtain ⟨ipd, other, hb⟩ := h.bank
  rw [hb]

theorem seq_eq :
    t.seq = { s.seq with countdown := t.seq.countdown, sample := t.seq.sample, err := t.seq.err } := by
  obtain ⟨cd, sm, er, hq⟩ := h.seq
  rw [hq]

theorem seq_eq_of_err {x : ErrLatch} (hs : s.seq.err = some x) (ht : t.seq.err = some x) :
    t.seq = { s.seq with countdown := t.seq.countdown, sample := t.seq.sample } := by
  have hq := h.seq_eq
  rwa [ht, ← hs] at hq

theorem bytesRem : t.seq.bytesRem = s.seq.bytesRem := by rw [h.seq_eq]

theorem streamOff : t.seq.streamOff = s.seq.streamOff := by rw [h.seq_eq]

theorem chunkSize : t.seq.chunkSize = s.seq.chunkSize := by rw [h.seq_eq]

end WaitFrame

/-! ## The loop of a wait -/

/-- From a wait's delay at `again`, the quantum and the turns around it bring the loop to its next round with one less
in `COUNTDOWN`. -/
theorem thenAt_quantum {m : Nat} {t : State} {again retry : MicroState} {n : Word} (g : State → Answer)
    (hagain : again ≠ .idle) (hretry : retry ≠ .idle) (ht : t.isAt again) (hn : t.seq.countdown = some n)
    (hr : NoResetWithin (m + 2) t) :
    ∃ u, thenAt (.next t) again (fun v => thenAt (quantumStep retry v) retry g) = g u ∧ WaitFrame t u ∧
      u.seq.countdown = some (n - 1#32) ∧ u.seq.err = t.seq.err ∧ NoResetWithin m u := by
  let v := t.ctlMove t.envMove
  let w := ((v.delay pollQuantumUs).setCountdown (n - 1#32)).goto retry
  have hv : NoResetWithin (m + 1) v := hr.ctlMove t.envMove
  have hw : NoResetWithin (m + 1) w := hv
  have hq : quantumStep retry v = .next w := quantumStep_of_countdown retry hn
  refine ⟨w.ctlMove w.envMove, ?_, ?_, rfl, rfl, hw.ctlMove _⟩
  · rw [thenAt_busy _ hagain ht hr]
    show thenAt (quantumStep retry v) retry g = _
    rw [hq, thenAt_busy g hretry rfl hw]
  · exact (((WaitFrame.ctlMove t _).trans (.delay v _)).trans (.setCountdown _ _)).trans
      ((WaitFrame.goto _ retry).trans (.ctlMove w _))

/-- A round of a wait either ends it, as `End` says, or, with `COUNTDOWN` not 0, comes to the delay at `again` within
`c` turns, in a state whose ends are also ends from `s`. -/
def RoundEndsOrGoesOn (c : Nat) (again : MicroState) (End : State → Answer → Prop) (round : State → Answer) : Prop :=
  ∀ (s : State) (n : Word) (x : ErrLatch) (m : Nat), s.seq.countdown = some n → s.seq.err = some x →
    NoResetWithin (m + 1 + c) s →
    (End s (round s) ∧ ∀ t, round s = .next t → ¬ t.isAt again) ∨
    (n ≠ 0#32 ∧ ∃ t y, round s = .next t ∧ t.isAt again ∧ t.seq.countdown = some n ∧ t.seq.err = some y ∧
      NoResetWithin (m + 1) t ∧ ∀ o, End t o → End s o)

/-- The ends of a wait do not depend on what its delays change. -/
def KeptByDelays (End : State → Answer → Prop) : Prop :=
  ∀ (s t : State) (o : Answer), WaitFrame s t → t.seq.err = s.seq.err → End t o → End s o

theorem toNat_sub_one {n : Word} {k : Nat} (h : n.toNat = k + 1) : (n - 1#32).toNat = k := by
  rw [BitVec.toNat_sub_of_le (by bv_omega), h]
  rfl

/-- A wait whose budget is `COUNTDOWN` ends as its rounds end (spec/41_poll.md R120). -/
theorem waitLoop_ends {c : Nat} {again retry : MicroState} {End : State → Answer → Prop} {round : State → Answer}
    (hagain : again ≠ .idle) (hretry : retry ≠ .idle) (hround : RoundEndsOrGoesOn c again End round)
    (hend : KeptByDelays End) :
    ∀ (k : Nat) (s : State) (n : Word) (x : ErrLatch), n.toNat = k → s.seq.countdown = some n → s.seq.err = some x →
      NoResetWithin ((c + 2) * k + 1 + c) s → End s (waitLoop round again retry k s) := by
  intro k
  induction k with
  | zero =>
    intro s n x hk hn hx hr
    rcases hround s n x _ hn hx hr with ⟨h, -⟩ | ⟨hne, -⟩
    · exact h
    · exact absurd (BitVec.eq_of_toNat_eq hk) hne
  | succ k ih =>
    intro s n x hk hn hx hr
    rcases hround s n x _ hn hx hr with ⟨h, hleave⟩ | ⟨-, t, y, ht, hta, htn, htx, htr, hback⟩
    · rw [waitLoop, thenAt_of_leaves _ hleave]
      exact h
    · have hr' : NoResetWithin ((c + 2) * k + 1 + c + 2) t := htr.mono (by rw [Nat.mul_succ]; omega)
      obtain ⟨u, hu, hframe, hun, hux, hur⟩ :=
        thenAt_quantum (waitLoop round again retry k) hagain hretry hta htn hr'
      rw [waitLoop, ht, hu]
      exact hback _ (hend t u _ hframe hux (ih u _ y (toNat_sub_one hk) hun (hux.trans htx) hur))

/-! ## The single-flag poll (spec/41_poll.md R111) -/

/-- The two ends of a single-flag wait from `s`: the clear, in a state with `ERR` as it was; or, after a check with
`COUNTDOWN` at 0, `Timeout` recorded. -/
def PollEnds (clear : State → Answer) (timedOut : MicroState) (s : State) (o : Answer) : Prop :=
  ∀ x, s.seq.err = some x → ∃ u, WaitFrame s u ∧ u.seq.err = some x ∧
    (o = clear u ∨ (u.seq.countdown = some 0#32 ∧ (∃ v, u.trace.getLast? = some (.rd .ipd v)) ∧
      o = .next ((u.record x .timeout).goto timedOut)))

theorem pollEnds_keptByDelays (clear : State → Answer) (timedOut : MicroState) :
    KeptByDelays (PollEnds clear timedOut) := by
  intro s t o hst he h x hx
  obtain ⟨u, htu, hux, hend⟩ := h x (he.trans hx)
  exact ⟨u, hst.trans htu, hux, hend⟩

/-- The round's three outcomes are those of its check; only the third, the flag clear and `COUNTDOWN` not 0, goes on. -/
theorem pollRound_endsOrGoesOn {f : Flag} {found timedOut again : MicroState} {clear : State → Answer}
    (hdist : [.idle, found, timedOut, again].Nodup) (hclear : ∀ u t, clear u = .next t → ¬ t.isAt again) :
    RoundEndsOrGoesOn 0 again (PollEnds clear timedOut) (pollRound (checkStep f found timedOut again) clear found) := by
  intro s n x m hn hx hr
  simp only [List.nodup_cons, List.mem_cons, List.not_mem_nil, or_false, not_or] at hdist
  obtain ⟨⟨hif, -, -⟩, ⟨hft, hfa⟩, hta, -⟩ := hdist
  rw [pollRound, checkStep_of_latch f found timedOut again hn hx]
  by_cases hseen : hasFlag s.cfg.layout s.ipdWord f = true
  · let t := s.sampleIpd.goto found
    have ht : NoResetWithin (m + 1) t := hr
    rw [if_pos hseen, thenAt_busy clear (Ne.symm hif) (t := t) rfl ht]
    refine .inl ⟨fun y hy => ⟨t.ctlMove t.envMove, ?_, hy, .inl rfl⟩, hclear _⟩
    exact ((WaitFrame.sampleIpd s).trans (.goto _ found)).trans (.ctlMove t _)
  rw [if_neg hseen]
  by_cases hzero : n = 0#32
  · let t := (s.sampleIpd.record x .timeout).goto timedOut
    rw [if_pos hzero, thenAt_not_at clear (not_isAt_goto (Ne.symm hft) _)]
    refine .inl ⟨fun y hy => ⟨s.sampleIpd, .sampleIpd s, hy, .inr ⟨hn.trans (congrArg some hzero), ?_, ?_⟩⟩, ?_⟩
    · exact ⟨s.ipdWord, by simp⟩
    · rw [← Option.some.inj (hx.symm.trans hy)]
    · rintro _ ⟨⟩
      exact not_isAt_goto hta _
  · let t := s.sampleIpd.goto again
    rw [if_neg hzero, thenAt_not_at clear (not_isAt_goto (Ne.symm hfa) _)]
    exact .inr ⟨hzero, t, x, rfl, rfl, hn, hx, hr,
      fun o => pollEnds_keptByDelays clear timedOut s t o ((WaitFrame.sampleIpd s).trans (.goto _ again)) rfl⟩

theorem execStAck_of_bytesRem {u : State} {rem : Word} (h : u.seq.bytesRem = some rem) :
    execStAck u = .next (((u.regWrite .ipd (u.cfg.layout.mask .start)).chunkSetup rem).goto .txFifo) := by
  rw [execStAck, h, need_some]

theorem execStAck_leaves (u t : State) (h : execStAck u = .next t) : ¬ t.isAt .stDly := by
  obtain ⟨rem, -, h⟩ := need_eq_next.1 h
  cases h
  exact not_isAt_goto (by decide) _

theorem execSpAck_leaves (u t : State) (h : execSpAck u = .next t) : ¬ t.isAt .spDly := by
  cases h
  exact not_isAt_goto (by decide) _

theorem execPollStart_ends {s : State} {n : Word} {x : ErrLatch} (hn : s.seq.countdown = some n)
    (hx : s.seq.err = some x) (hr : NoResetWithin (2 * n.toNat + 1) s) :
    PollEnds execStAck .spClr s (execPollStart s) := by
  rw [execPollStart, quanta_of_countdown hn, pollStartLoop_eq]
  exact waitLoop_ends (by decide) (by decide)
    (pollRound_endsOrGoesOn (f := .start) (by decide) execStAck_leaves)
    (pollEnds_keptByDelays _ _) _ s n x rfl hn hx (by simpa using hr)

theorem execPollStop_ends {s : State} {n : Word} {x : ErrLatch} (hn : s.seq.countdown = some n)
    (hx : s.seq.err = some x) (hr : NoResetWithin (2 * n.toNat + 1) s) :
    PollEnds execSpAck .dis s (execPollStop s) := by
  rw [execPollStop, quanta_of_countdown hn, pollStopLoop_eq]
  exact waitLoop_ends (by decide) (by decide)
    (pollRound_endsOrGoesOn (f := .stop) (by decide) execSpAck_leaves)
    (pollEnds_keptByDelays _ _) _ s n x rfl hn hx (by simpa using hr)

/-- Timing out loads `Timeout` into `ERR` and changes no register that the wait has not. -/
theorem record_timeout_seq {s u : State} (hsu : WaitFrame s u) (hzero : u.seq.countdown = some 0#32) (x : ErrLatch) :
    (u.record x .timeout).seq =
      { s.seq with countdown := some 0#32, sample := u.seq.sample, err := some (x.record .timeout) } := by
  obtain ⟨cd, sm, er, hq⟩ := hsu.seq
  have hcd : cd = some 0#32 := by simpa [hq] using hzero
  simp [hq, hcd]

/-- In `t` a chunk is set up with `rem` bytes left, and the other registers are those of `q`, but for what a check and
its delays change. -/
def SetsUpChunk (rem : Word) (q : SeqRegs) (t : State) : Prop :=
  t.seq = { (t.chunkSetup rem).seq with
    cmd := q.cmd, devaddr := q.devaddr, p := q.p, l := q.l, r := q.r, d := q.d,
    bytesRem := q.bytesRem, streamOff := q.streamOff, err := q.err, scanAddr := q.scanAddr, hz := q.hz }

theorem setsUpChunk_chunkSetup {u : State} {q : SeqRegs} {cd sm : Option Word} (rem : Word) (m : MicroState)
    (h : u.seq = { q with countdown := cd, sample := sm }) : SetsUpChunk rem q ((u.chunkSetup rem).goto m) := by
  simp [SetsUpChunk, h]

/-- Settles O34: each poll ends as its loop does. -/
theorem pollEndsAcknowledgedOrTimedOut : Obligations.PollEndsAcknowledgedOrTimedOut := by
  unfold Obligations.PollEndsAcknowledgedOrTimedOut
  intro s n x hn hx hr
  have hr' : NoResetWithin (2 * n.toNat + 1) s := hr.mono (Nat.le_succ _)
  refine ⟨fun rem hrem => ?_, ?_⟩
  · obtain ⟨u, hsu, hux, hack | ⟨hzero, ⟨v, hcheck⟩, hto⟩⟩ := execPollStart_ends hn hx hr' x hx
    · let w := u.regWrite .ipd (u.cfg.layout.mask .start)
      let t := (w.chunkSetup rem).goto .txFifo
      have ht : execPollStart s = .next t := hack.trans (execStAck_of_bytesRem (hsu.bytesRem.trans hrem))
      have hsw : WaitFrame s w := hsu.trans (.regWrite_ipd u _)
      have hlast : t.trace.getLast? = some (.w .ipd (t.cfg.layout.mask .start)) := List.getLast?_concat
      refine ⟨t, ht, hsw.bank_eq, hsw.cfg, hsw.port, hsw.trace, .inl ⟨?_, rfl, ?_, ?_⟩⟩
      · rw [pollStartResult, ht]
        exact waitResult_of_clear (not_isAt_goto (by decide) _) hlast
      · exact hsw.cfg ▸ hlast
      · exact setsUpChunk_chunkSetup rem .txFifo (hsw.seq_eq_of_err hx hux)
    · let t := (u.record x .timeout).goto .spClr
      have hst : WaitFrame s t := (hsu.trans (.record u x .timeout)).trans (.goto _ .spClr)
      refine ⟨t, hto, hst.bank_eq, hst.cfg, hst.port, hst.trace, .inr ⟨?_, rfl, ⟨v, hcheck⟩, ?_⟩⟩
      · rw [pollStartResult, hto]
        exact waitResult_of_check (not_isAt_goto (by decide) _) hcheck
      · exact record_timeout_seq hsu hzero x
  · obtain ⟨u, hsu, hux, hack | ⟨hzero, ⟨v, hcheck⟩, hto⟩⟩ := execPollStop_ends hn hx hr' x hx
    · let w := u.regWrite .ipd (u.cfg.layout.mask .stop)
      have hsw : WaitFrame s w := hsu.trans (.regWrite_ipd u _)
      have hlast : w.trace.getLast? = some (.w .ipd (w.cfg.layout.mask .stop)) := List.getLast?_concat
      refine ⟨w.goto .dis, hack, hsw.bank_eq, hsw.cfg, hsw.port, hsw.trace, rfl, .inl ⟨?_, ?_, ?_⟩⟩
      · rw [pollStopResult, hack]
        exact waitResult_of_clear (t := w.goto .dis) (not_isAt_goto (by decide) _) hlast
      · exact hsw.cfg ▸ hlast
      · exact hsw.seq_eq_of_err hx hux
    · let t := (u.record x .timeout).goto .dis
      have hst : WaitFrame s t := (hsu.trans (.record u x .timeout)).trans (.goto _ .dis)
      refine ⟨t, hto, hst.bank_eq, hst.cfg, hst.port, hst.trace, rfl, .inr ⟨?_, ⟨v, hcheck⟩, ?_⟩⟩
      · rw [pollStopResult, hto]
        exact waitResult_of_check (not_isAt_goto (by decide) _) hcheck
      · exact record_timeout_seq hsu hzero x

/-! ## `sendStart` and `sendStop` (spec/42_startstop.md R125, R129) -/

/-- The three stores that arm a single-flag wait, and the turns around them, bring the block to its poll with a fresh
budget. -/
theorem thenAt_armed {k : Nat} {s : State} {a v e : Word} {con ien chk : MicroState}
    {storeCon storeIen : State → Answer} (poll : State → Answer)
    (hc : con ≠ .idle) (hi : ien ≠ .idle) (hk : chk ≠ .idle)
    (hcon : ∀ t, t.cfg = s.cfg → storeCon t = storeStep .con v ien t)
    (hien : ∀ t, t.cfg = s.cfg → storeIen t = armStep e chk t) (hr : NoResetWithin (k + 3) s) :
    ∃ u, thenAt (thenAt (thenAt (storeStep .ipd a con s) con storeCon) ien storeIen) chk poll = poll u ∧
      (∃ ipd other, u.bank = { s.bank with con := v, ien := e, ipd := ipd, ipdOther := other }) ∧
      u.seq = { s.seq with countdown := some s.cfg.timeoutBudget } ∧ u.cfg = s.cfg ∧ u.port = s.port ∧
      u.trace = s.trace ++ [.w .ipd a, .w .con v, .w .ien e] ∧ NoResetWithin k u := by
  let s1 := (s.regWrite .ipd a).goto con
  let t1 := s1.ctlMove s1.envMove
  let s2 := (t1.regWrite .con v).goto ien
  let t2 := s2.ctlMove s2.envMove
  let s3 := ((t2.regWrite .ien e).setCountdown t2.cfg.timeoutBudget).goto chk
  have h1 : NoResetWithin (k + 3) s1 := hr
  have h2 : NoResetWithin (k + 2) s2 := h1.ctlMove s1.envMove
  have h3 : NoResetWithin (k + 1) s3 := h2.ctlMove s2.envMove
  refine ⟨s3.ctlMove s3.envMove, ?_, ⟨_, _, rfl⟩, rfl, rfl, rfl, ?_, h3.ctlMove _⟩
  · rw [storeStep, thenAt_busy _ hc (t := s1) rfl h1, hcon t1 rfl, storeStep, thenAt_busy _ hi (t := s2) rfl h2,
      hien t2 rfl, armStep, thenAt_busy _ hk (t := s3) rfl h3]
  · simp [s3, t2, s2, t1, s1]

/-- Settles O37: the poll's ends, from the state the stores before it leave. -/
theorem sendStartCompletes : Obligations.SendStartCompletes := by
  unfold Obligations.SendStartCompletes
  intro s rem x hx hrem hr
  obtain ⟨u, hu, ⟨_, _, hbank⟩, hseq, hcfg, hport, htrace, hur⟩ :=
    thenAt_armed (s := s) (a := s.cfg.layout.ipdAll) (v := s.cfg.layout.conStartValue)
      (e := s.cfg.layout.ienStartValue) (con := .stCon) (ien := .stIen) (chk := .stChk) (storeCon := execStCon)
      (storeIen := execStIen) execPollStart (by decide) (by decide) (by decide) (fun t ht => by rw [execStCon, ht])
      (fun t ht => by rw [execStIen, ht]) hr
  have hsend : execSendStart s = execPollStart u := hu
  have hresult : sendStartResult s = pollStartResult u := by rw [sendStartResult, hsend, pollStartResult]
  obtain ⟨t, ht, htbank, htcfg, htport, httrace, hends⟩ :=
    (pollEndsAcknowledgedOrTimedOut u s.cfg.timeoutBudget x (by rw [hseq]) (by rw [hseq, hx]) hur).1 rem
      (by rw [hseq, hrem])
  rw [hseq] at hends
  refine ⟨t, hsend.trans ht, ?_, htcfg.trans hcfg, htport.trans hport, htrace ▸ httrace, ?_⟩
  · rw [htbank, hbank]
  · rw [hresult]
    rcases hends with ⟨hack, hat, -, htseq⟩ | ⟨hto, hat, -, htseq⟩
    · exact .inl ⟨hack, hat, htseq⟩
    · exact .inr ⟨hto, hat, htseq⟩

/-- Settles O38: the poll's ends, from the state the stores before it leave. -/
theorem sendStopCompletes : Obligations.SendStopCompletes := by
  unfold Obligations.SendStopCompletes
  intro s x hx hr
  obtain ⟨u, hu, ⟨_, _, hbank⟩, hseq, hcfg, hport, htrace, hur⟩ :=
    thenAt_armed (s := s) (a := s.cfg.layout.ipdAll) (v := s.cfg.layout.conStopValue)
      (e := s.cfg.layout.ienStopValue) (con := .spCon) (ien := .spIen) (chk := .spChk) (storeCon := execSpCon)
      (storeIen := execSpIen) execPollStop (by decide) (by decide) (by decide) (fun t ht => by rw [execSpCon, ht])
      (fun t ht => by rw [execSpIen, ht]) hr
  have hsend : execSendStop s = execPollStop u := hu
  have hresult : sendStopResult s = pollStopResult u := by rw [sendStopResult, hsend, pollStopResult]
  obtain ⟨t, ht, htbank, htcfg, htport, httrace, hat, hends⟩ :=
    (pollEndsAcknowledgedOrTimedOut u s.cfg.timeoutBudget x (by rw [hseq]) (by rw [hseq, hx]) hur).2
  rw [hseq] at hends
  refine ⟨t, hsend.trans ht, hat, ?_, htcfg.trans hcfg, htport.trans hport, htrace ▸ httrace, ?_⟩
  · rw [htbank, hbank]
  · rw [hresult]
    rcases hends with ⟨hack, -, htseq⟩ | ⟨hto, -, htseq⟩
    · rw [htseq]
      exact ⟨rfl, .inl ⟨hack, hx⟩⟩
    · rw [htseq]
      exact ⟨rfl, .inr ⟨hto, rfl⟩⟩

end Sys2Proof.Machine
end

section
/-! PROOFS. The transmit wait: the latch over its errors, its round and its ends. -/

namespace Sys2Proof.Machine

/-! ## The first-error latch -/

/-- `y` is what the latch holds after any number of errors were recorded on `x`: `x` itself, or `x` with the first. -/
def ErrLatch.Records (x y : ErrLatch) : Prop := y = x ∨ ∃ e, y = x.record e

/-- A second record changes nothing. -/
@[simp] theorem record_record (x : ErrLatch) (e e' : ErrKind) : (x.record e).record e' = x.record e := by
  cases x <;> rfl

theorem record_ne_noError (x : ErrLatch) (e : ErrKind) : x.record e ≠ .noError := by
  cases x <;> simp [ErrLatch.record]

namespace ErrLatch.Records

theorem record {x y : ErrLatch} (h : x.Records y) (e : ErrKind) : ∃ e', y.record e = x.record e' := by
  rcases h with rfl | ⟨e', rfl⟩
  · exact ⟨e, rfl⟩
  · exact ⟨e', record_record x e' e⟩

theorem trans {x y z : ErrLatch} (h : x.Records y) (h' : y.Records z) : x.Records z := by
  rcases h' with rfl | ⟨e, rfl⟩
  · exact h
  · exact .inr (h.record e)

/-- An error in the latch was recorded on what it held before. -/
theorem eq_record {x : ErrLatch} {e : ErrKind} (h : x.Records (.error e)) : ∃ e', .error e = x.record e' := by
  rcases h with rfl | h
  · exact ⟨e, rfl⟩
  · exact h

/-- With no error in the latch there was none before. -/
theorem eq_noError {x : ErrLatch} (h : x.Records .noError) : x = .noError := by
  rcases h with h | ⟨e, h⟩
  · exact h.symm
  · exact absurd h.symm (record_ne_noError x e)

end ErrLatch.Records

/-! ## The transmit wait (spec/41_poll.md R116) -/

/-- The four ways a transmit check ends. -/
theorem execTxChk_of_latch {s : State} {n : Word} {x : ErrLatch} (hn : s.seq.countdown = some n)
    (hx : s.seq.err = some x) :
    execTxChk s = .next
      (if hasFlag s.cfg.layout s.ipdWord .nakrcv = true then s.sampleIpd.goto .txNak
        else if hasFlag s.cfg.layout s.ipdWord .mbtf = true then s.sampleIpd.goto .txAck
        else if n = 0#32 then (s.sampleIpd.record x .timeout).goto .spClr else s.sampleIpd.goto .txDly) := by
  rw [execTxChk, ifSeen_eq, ifSeen_eq, orTimeout_of_latch (s := s.sampleIpd) .spClr .txDly hn hx]
  split
  · rfl
  · split <;> rfl

/-- The three ways TX_NAK goes on. -/
theorem execTxNak_of_latch {s : State} {v n : Word} {x : ErrLatch} (hv : s.seq.sample = some v)
    (hn : s.seq.countdown = some n) (hx : s.seq.err = some x) :
    execTxNak s = .next (((s.regWrite .ipd (s.cfg.layout.mask .nakrcv)).record x .noAck).goto
      (if hasFlag s.cfg.layout v .mbtf = true then .txAck else if n = 0#32 then .spClr else .txDly)) := by
  simp only [execTxNak, hv, hx, hn, need_some]
  split <;> rfl

/-- TX_ACK with no error recorded: the clear, and the advance by the chunk. -/
theorem execTxAck_of_noError {s : State} {rem off size : Word} (hx : s.seq.err = some .noError)
    (hrem : s.seq.bytesRem = some rem) (hoff : s.seq.streamOff = some off) (hsize : s.seq.chunkSize = some size) :
    execTxAck s = .next ((s.regWrite .ipd (s.cfg.layout.mask .mbtf)).advance (rem - size) (off + size)) := by
  simp only [execTxAck, hx, hrem, hoff, hsize, need_some]

/-- TX_ACK after an error: the clear and no more. -/
theorem execTxAck_of_error {s : State} {e : ErrKind} (hx : s.seq.err = some (.error e)) :
    execTxAck s = .next ((s.regWrite .ipd (s.cfg.layout.mask .mbtf)).goto .spClr) := by
  rw [execTxAck, hx, need_some, storeStep]

/-- TX_ACK never goes back to the wait. -/
theorem execTxAck_leaves (u t : State) (h : execTxAck u = .next t) : ¬ t.isAt .txDly := by
  obtain ⟨x, -, h⟩ := need_eq_next.1 h
  cases x with
  | error e =>
    cases h
    exact not_isAt_goto (by decide) _
  | noError =>
    obtain ⟨rem, -, h⟩ := need_eq_next.1 h
    obtain ⟨off, -, h⟩ := need_eq_next.1 h
    obtain ⟨size, -, h⟩ := need_eq_next.1 h
    cases h
    unfold State.advance
    dsimp only
    split
    · exact not_isAt_goto (by decide) _
    · exact not_isAt_goto (by decide) _

/-- The two ends of a transmit wait from `s`: TX_ACK, with the NACKs of the wait recorded; or SP_CLR with `COUNTDOWN` at
0 and an error recorded. -/
def TxEnds (s : State) (o : Answer) : Prop :=
  ∀ x, s.seq.err = some x → ∃ u y, WaitFrame s u ∧ u.seq.err = some y ∧ x.Records y ∧
    (o = execTxAck u ∨
      (u.seq.countdown = some 0#32 ∧ u.isAt .spClr ∧ (∃ e, y = x.record e) ∧ o = .next u))

/-- The ends from a later state of the wait are ends from an earlier one. -/
theorem TxEnds.of_frame {s t : State} {x y : ErrLatch} {o : Answer} (hst : WaitFrame s t) (hx : s.seq.err = some x)
    (hy : t.seq.err = some y) (hxy : x.Records y) (h : TxEnds t o) : TxEnds s o := by
  intro x' hx'
  obtain rfl : x = x' := Option.some.inj (hx.symm.trans hx')
  obtain ⟨u, z, htu, huz, hyz, hend⟩ := h y hy
  refine ⟨u, z, hst.trans htu, huz, hxy.trans hyz, hend.imp_right ?_⟩
  rintro ⟨hzero, hat, ⟨e, rfl⟩, ho⟩
  exact ⟨hzero, hat, hxy.record e, ho⟩

/-- What a check and its NACK leave: one of three micro-states, by the completion bit of the sample and `COUNTDOWN`. -/
theorem txChk_txNak_cases {s : State} {n : Word} {x : ErrLatch} {m : Nat} (hn : s.seq.countdown = some n)
    (hx : s.seq.err = some x) (hr : NoResetWithin (m + 2) s) :
    ∃ t y, thenAt (execTxChk s) .txNak execTxNak = .next t ∧ WaitFrame s t ∧ t.seq.countdown = some n ∧
      t.seq.err = some y ∧ x.Records y ∧ NoResetWithin (m + 1) t ∧
      (t.isAt .txAck ∨ (n = 0#32 ∧ t.isAt .spClr ∧ ∃ e, y = x.record e) ∨ (n ≠ 0#32 ∧ t.isAt .txDly)) := by
  have hr1 : NoResetWithin (m + 1) s := hr.mono (Nat.le_succ _)
  have hsample := WaitFrame.sampleIpd s
  rw [execTxChk_of_latch hn hx]
  by_cases hnak : hasFlag s.cfg.layout s.ipdWord .nakrcv = true
  · let v := s.sampleIpd.goto .txNak
    let w := v.ctlMove v.envMove
    let z := (w.regWrite .ipd (w.cfg.layout.mask .nakrcv)).record x .noAck
    have hv : NoResetWithin (m + 2) v := hr
    have hz : NoResetWithin (m + 1) z := hv.ctlMove v.envMove
    have hsw : WaitFrame s w := (hsample.trans (.goto _ .txNak)).trans (.ctlMove v _)
    have hsz : WaitFrame s z := (hsw.trans (.regWrite_ipd w _)).trans (.record _ x .noAck)
    rw [if_pos hnak, thenAt_busy execTxNak (by decide) (t := v) rfl hv,
      execTxNak_of_latch (s := w) (v := s.ipdWord) rfl hn hx]
    refine ⟨_, x.record .noAck, rfl, hsz.trans (.goto _ _), hn, rfl, .inr ⟨_, rfl⟩, hz, ?_⟩
    by_cases hm : hasFlag w.cfg.layout s.ipdWord .mbtf = true
    · exact .inl (by simp [hm])
    · by_cases hzero : n = 0#32
      · exact .inr (.inl ⟨hzero, by simp [hm, hzero], _, rfl⟩)
      · exact .inr (.inr ⟨hzero, by simp [hm, hzero]⟩)
  rw [if_neg hnak]
  by_cases hm : hasFlag s.cfg.layout s.ipdWord .mbtf = true
  · rw [if_pos hm, thenAt_not_at _ (not_isAt_goto (by decide) _)]
    exact ⟨_, x, rfl, hsample.trans (.goto _ _), hn, hx, .inl rfl, hr1, .inl rfl⟩
  rw [if_neg hm]
  by_cases hzero : n = 0#32
  · rw [if_pos hzero, thenAt_not_at _ (not_isAt_goto (by decide) _)]
    exact ⟨_, x.record .timeout, rfl, (hsample.trans (.record _ x .timeout)).trans (.goto _ _), hn, rfl, .inr ⟨_, rfl⟩,
      hr1, .inr (.inl ⟨hzero, rfl, _, rfl⟩)⟩
  · rw [if_neg hzero, thenAt_not_at _ (not_isAt_goto (by decide) _)]
    exact ⟨_, x, rfl, hsample.trans (.goto _ _), hn, hx, .inl rfl, hr1, .inr (.inr ⟨hzero, rfl⟩)⟩

theorem txCheck_endsOrGoesOn : RoundEndsOrGoesOn 1 .txDly TxEnds txCheck := by
  intro s n x m hn hx hr
  obtain ⟨t, y, ht, hst, htn, hty, hxy, htr, hends⟩ := txChk_txNak_cases hn hx hr
  rw [txCheck, ht]
  rcases hends with hat | ⟨hzero, hat, hrec⟩ | ⟨hne, hat⟩
  · rw [thenAt_busy execTxAck (by decide) hat htr]
    refine .inl ⟨TxEnds.of_frame hst hx hty hxy fun y' hy' => ?_, execTxAck_leaves _⟩
    exact ⟨t.ctlMove t.envMove, y', .ctlMove t _, hy', .inl rfl, .inl rfl⟩
  · rw [thenAt_not_at _ (not_isAt_of_isAt hat (by decide))]
    refine .inl ⟨fun x' hx' => ?_, ?_⟩
    · obtain rfl : x = x' := Option.some.inj (hx.symm.trans hx')
      exact ⟨t, y, hst, hty, hxy, .inr ⟨htn.trans (congrArg some hzero), hat, hrec, rfl⟩⟩
    · rintro _ ⟨⟩
      exact not_isAt_of_isAt hat (by decide)
  · rw [thenAt_not_at _ (not_isAt_of_isAt hat (by decide))]
    exact .inr ⟨hne, t, y, rfl, hat, htn, hty, htr, fun o => TxEnds.of_frame hst hx hty hxy⟩

theorem txEnds_keptByDelays : KeptByDelays TxEnds := by
  intro s t o hst he h x hx
  exact TxEnds.of_frame hst hx (he.trans hx) (.inl rfl) h x hx

theorem execTxWait_ends {s : State} {n : Word} {x : ErrLatch} (hn : s.seq.countdown = some n)
    (hx : s.seq.err = some x) (hr : NoResetWithin (3 * n.toNat + 2) s) : TxEnds s (execTxWait s) := by
  rw [execTxWait, quanta_of_countdown hn, txWaitLoop_eq]
  exact waitLoop_ends (by decide) (by decide) txCheck_endsOrGoesOn txEnds_keptByDelays _ s n x rfl hn hx hr

/-- A wait that a reset did not abandon was acknowledged or timed out. -/
theorem waitResult_of_busy (f : Flag) {t : State} (h : ¬ t.isAt .idle) :
    waitResult f (.next t) = some .acknowledged ∨ waitResult f (.next t) = some .timedOut := by
  rw [waitResult_next, if_neg h]
  split
  · exact .inl rfl
  · exact .inr rfl

/-- Settles O40: the wait's ends are TX_ACK, by the latch and the bytes left, and SP_CLR at `COUNTDOWN` 0. -/
theorem txWaitAdvancesOrRecordsTheFirstError : Obligations.TxWaitAdvancesOrRecordsTheFirstError := by
  unfold Obligations.TxWaitAdvancesOrRecordsTheFirstError
  intro s n rem off size x hn hx hrem hoff hsize hr
  obtain ⟨u, y, hsu, huy, hxy, hack | ⟨hzero, hat, ⟨e, rfl⟩, hto⟩⟩ :=
    execTxWait_ends hn hx (hr.mono (Nat.le_succ _)) x hx
  · let w := u.regWrite .ipd (u.cfg.layout.mask .mbtf)
    have hsw : WaitFrame s w := hsu.trans (.regWrite_ipd u _)
    have hlast : w.trace.getLast? = some (.w .ipd (w.cfg.layout.mask .mbtf)) := List.getLast?_concat
    have hclear : ∀ (q : SeqRegs) (m : MicroState), m ≠ .idle →
        execTxWait s = .next (State.goto { w with seq := q } m) → txWaitResult s = some .acknowledged := by
      intro q m hm ht
      rw [txWaitResult, ht]
      exact waitResult_of_clear (not_isAt_goto hm _) hlast
    cases y with
    | error e =>
      have ht : execTxWait s = .next (w.goto .spClr) := hack.trans (execTxAck_of_error huy)
      obtain ⟨e', he'⟩ := hxy.eq_record
      exact ⟨_, ht, hsw.bank_eq, hsw.cfg, hsw.port, hsw.trace,
        .inr (.inr ⟨.inl (hclear _ .spClr (by decide) ht), rfl, e', he' ▸ huy, hsw.seq_eq⟩)⟩
    | noError =>
      obtain rfl := hxy.eq_noError
      let q : SeqRegs := { s.seq with bytesRem := some (rem - size), streamOff := some (off + size) }
      let v : State := { w with seq := { w.seq with bytesRem := some (rem - size), streamOff := some (off + size) } }
      have hv : v.seq = { q with countdown := w.seq.countdown, sample := w.seq.sample } := by
        show { w.seq with bytesRem := some (rem - size), streamOff := some (off + size) } = _
        rw [hsw.seq_eq_of_err hx huy]
      have hadvance := hack.trans (execTxAck_of_noError huy (hsu.bytesRem.trans hrem) (hsu.streamOff.trans hoff)
        (hsu.chunkSize.trans hsize))
      by_cases hdone : rem - size = 0#32
      · have ht : execTxWait s = .next (v.goto .spClr) := by rw [hadvance, State.advance, if_pos hdone]
        exact ⟨_, ht, hsw.bank_eq, hsw.cfg, hsw.port, hsw.trace,
          .inr (.inl ⟨hclear _ .spClr (by decide) ht, rfl, rfl, hdone, hdone ▸ hv⟩)⟩
      · have ht : execTxWait s = .next ((v.chunkSetup (rem - size)).goto .txFifo) := by
          rw [hadvance, State.advance, if_neg hdone]
        refine ⟨_, ht, hsw.bank_eq, hsw.cfg, hsw.port, hsw.trace,
          .inl ⟨hclear _ .txFifo (by decide) ht, rfl, rfl, hdone, ?_⟩⟩
        rw [← hx]
        exact setsUpChunk_chunkSetup (q := q) (rem - size) .txFifo hv
  · have hresult := waitResult_of_busy .mbtf (not_isAt_of_isAt hat (by decide))
    rw [← hto] at hresult
    exact ⟨u, hto, hsu.bank_eq, hsu.cfg, hsu.port, hsu.trace,
      .inr (.inr ⟨hresult.imp_right fun h => ⟨h, hzero⟩, hat, e, huy, hsu.seq_eq⟩)⟩

end Sys2Proof.Machine
end

section
/-! PROOFS. The invariant as one assertion for each micro-state. -/

namespace Sys2Proof.Machine

/-! ## Assertions -/

/-- The clock configurator has its operand: the conclusion of `ClockOk`. -/
def State.Clocked (s : State) : Prop := s.seq.cmd = some .cfgclk ∧ s.seq.hz = some s.cfg.targetSclHz

/-- The latch holds the request of a WRTXN or of a probe: the conclusion of `RequestOk`. -/
def State.Requested (s : State) : Prop :=
  (s.seq.cmd = some .wrtxn ∨ s.seq.cmd = some .scan) ∧
  s.seq.devaddr.isSome ∧ s.seq.r.isSome ∧ s.seq.d.isSome ∧
  s.seq.p = s.seq.r.map (fun r => BitVec.ofNat 32 r.length) ∧
  s.seq.l = s.seq.d.map (fun d => BitVec.ofNat 32 d.length) ∧ s.seq.total < 2 ^ 32

/-- A SCAN has an address to probe. -/
def State.Scanning (s : State) : Prop := s.seq.cmd = some .scan ∧ s.seq.scanAddr.any probed = true

/-- The request of a SCAN is the probe of its address. -/
def State.Probing (s : State) : Prop :=
  s.seq.cmd = some .scan → s.seq.scanAddr.any probed = true ∧
    s.seq.devaddr = s.seq.scanAddr.map (fun a => a.setWidth 7) ∧ s.seq.r = some [scanPrefixByte] ∧ s.seq.d = some []

/-- `STREAM_OFF + BYTES_REM = TOTAL`. -/
def State.OnStream (s : State) : Prop :=
  s.seq.bytesRem.isSome ∧ s.seq.streamOff.isSome ∧
    (s.seq.streamOff.getD 0#32).toNat + (s.seq.bytesRem.getD 0#32).toNat = s.seq.total

/-- The chunk is set up: the conclusion of `ChunkOk`. -/
def State.ChunkSet (s : State) : Prop :=
  s.seq.bytesRem.getD 0#32 ≠ 0#32 ∧
  s.seq.chunkSize = s.seq.bytesRem.map (chunkSizeOf s.cfg.fifoDepthBytes) ∧
  s.seq.wordCnt = s.seq.chunkSize.map wordCountOf ∧
  (s.seq.streamOff.getD 0#32).toNat % s.cfg.fifoDepthBytes = 0

/-- A wait has a budget. -/
def State.Budgeted (s : State) : Prop :=
  s.seq.countdown.isSome ∧ s.seq.countdown.getD 0#32 ≤ s.cfg.timeoutBudget

/-- A wait has a quantum left. -/
def State.QuantumLeft (s : State) : Prop := s.Budgeted ∧ s.seq.countdown.getD 0#32 ≠ 0#32

/-- A transaction. -/
def State.InTxn (s : State) : Prop := s.Requested ∧ s.Probing

/-- A transaction after TXN_INIT. -/
def State.Running (s : State) : Prop := s.InTxn ∧ s.OnStream

/-- Running, with nothing sent and no error. -/
def State.Starting (s : State) : Prop := s.Running ∧ s.seq.err = some .noError ∧ s.seq.streamOff = some 0#32

/-- The start wait: the start condition is triggered, and its source is enabled. -/
def State.StartArmed (s : State) : Prop :=
  s.Starting ∧ s.bank.con = s.cfg.layout.conStartValue ∧ s.bank.ien = s.cfg.layout.ienStartValue

/-- Sending a chunk. -/
def State.Sending (s : State) : Prop := s.Running ∧ s.ChunkSet

/-- Every word of the chunk is loaded. -/
def State.Loaded (s : State) : Prop := s.Sending ∧ s.seq.wordIdx = s.seq.wordCnt

/-- The chunk is triggered: `CON` and `MTXCNT` are written. -/
def State.Counted (s : State) : Prop :=
  s.Loaded ∧ s.bank.con = s.cfg.layout.conTxValue ∧ some s.bank.mtxcnt = s.seq.chunkSize

/-- The transmit wait: its sources are enabled, and no timeout is recorded. -/
def State.SendArmed (s : State) : Prop :=
  s.Counted ∧ s.bank.ien = s.cfg.layout.ienTxValue ∧ s.seq.err.isSome ∧ s.seq.err ≠ some (.error .timeout)

/-- Unwinding, with or without an error. -/
def State.Stopping (s : State) : Prop := s.Running ∧ s.seq.err.isSome

/-- The stop wait: the stop condition is triggered, and its source is enabled. -/
def State.StopArmed (s : State) : Prop :=
  s.Stopping ∧ s.bank.con = s.cfg.layout.conStopValue ∧ s.bank.ien = s.cfg.layout.ienStopValue

/-- What the invariant says at each micro-state, beside `ConfigOk`. -/
def State.Phase (s : State) : MicroState → Prop
  | .idle => s.seq = SeqRegs.noValues
  | .ckSel | .ckDiv => s.Clocked
  | .txnInit => s.InTxn
  | .stClr | .stCon => s.Starting
  | .stIen => s.Starting ∧ s.bank.con = s.cfg.layout.conStartValue
  | .stChk => s.StartArmed ∧ s.Budgeted
  | .stAck => s.StartArmed
  | .stDly => s.StartArmed ∧ s.QuantumLeft
  | .txFifo => s.Sending ∧ s.seq.err = some .noError ∧
      s.seq.wordIdx.isSome ∧ s.seq.wordIdx.getD 0#32 < s.seq.wordCnt.getD 0#32
  | .txCon => s.Loaded ∧ s.seq.err = some .noError
  | .txCnt => s.Loaded ∧ s.seq.err = some .noError ∧ s.bank.con = s.cfg.layout.conTxValue
  | .txIen => s.Counted ∧ s.seq.err = some .noError
  | .txChk => s.SendArmed ∧ s.Budgeted
  | .txNak => s.SendArmed ∧ s.Budgeted ∧ s.seq.sample.any (fun v => hasFlag s.cfg.layout v .nakrcv) = true
  | .txAck => s.SendArmed
  | .txDly => s.SendArmed ∧ s.QuantumLeft
  | .spClr | .spCon => s.Stopping
  | .spIen => s.Stopping ∧ s.bank.con = s.cfg.layout.conStopValue
  | .spChk => s.StopArmed ∧ s.Budgeted
  | .spAck | .dis => s.StopArmed
  | .spDly => s.StopArmed ∧ s.QuantumLeft
  | .ret => s.Stopping ∧ s.bank.con = 0#32 ∧ s.bank.ien = s.cfg.layout.ienStopValue
  | .scNext => s.Scanning
  | .scDly => s.Scanning ∧ s.bank.con = 0#32 ∧ s.bank.ien = s.cfg.layout.ienStopValue
  | .done => s.seq.cmd.isSome ∧ (s.seq.cmd ≠ some .cfgclk → s.bank.con = 0#32)

/-- At a micro-state, being within a group is a fact about the group. -/
theorem within_iff_mem {s : State} {m : MicroState} (hm : s.isAt m) (ms : List MicroState) :
    s.within ms ↔ m ∈ ms := by
  rw [State.within, show s.upc = m.code from hm, List.mem_map_of_injective fun _ _ => MicroState.code_inj.1]

theorem isAt_iff_eq {s : State} {m : MicroState} (hm : s.isAt m) (m' : MicroState) : s.isAt m' ↔ m = m' := by
  rw [State.isAt, show s.upc = m.code from hm, MicroState.code_inj]

theorem code_toNat_lt (m : MicroState) : m.code.toNat < 29 := by cases m <;> decide

theorem codeOk_of_isAt {s : State} {m : MicroState} (hm : s.isAt m) : s.CodeOk := by
  rw [State.CodeOk, show s.upc = m.code from hm]
  exact code_toNat_lt m

/-- The invariant as the conjunction of its clauses. -/
theorem inv_iff (s : State) : s.Inv ↔ s.ConfigOk ∧ s.CodeOk ∧ s.IdleOk ∧ s.ClockOk ∧ s.RequestOk ∧ s.ScanOk ∧
    s.StreamOk ∧ s.StartOk ∧ s.ChunkOk ∧ s.FifoOk ∧ s.SendErrOk ∧ s.WaitOk ∧ s.SampleOk ∧ s.ConOk ∧ s.IenOk ∧
    s.CountOk := by
  constructor <;>
    exact fun ⟨config, code, idle, clock, request, scan, stream, start, chunk, fifo, sendErr, wait, sample, con, ien,
        count⟩ =>
      ⟨config, code, idle, clock, request, scan, stream, start, chunk, fifo, sendErr, wait, sample, con, ien, count⟩

/-- At a micro-state the invariant is that micro-state's assertion: each clause says its part there, or nothing. -/
theorem inv_iff_phase {s : State} {m : MicroState} (hm : s.isAt m) : s.Inv ↔ s.ConfigOk ∧ s.Phase m := by
  rw [inv_iff, and_iff_right (codeOk_of_isAt hm)]
  refine and_congr_right fun _ => ?_
  -- Each clause: its group as a fact about `m`, its conclusion by the name it has above.
  simp only [State.IdleOk, State.ClockOk, State.RequestOk, State.ScanOk, State.StreamOk, State.StartOk, State.ChunkOk,
    State.FifoOk, State.SendErrOk, State.WaitOk, State.SampleOk, State.ConOk, State.IenOk, State.CountOk,
    within_iff_mem hm, isAt_iff_eq hm, clockStates, txnStates, runningStates, startStates, sendStates, stopStates,
    disabledStates, waitStates, ← State.Clocked.eq_1, ← State.Requested.eq_1, ← State.Scanning.eq_1,
    ← State.Probing.eq_1, ← State.OnStream.eq_1, ← State.ChunkSet.eq_1, ← State.Budgeted.eq_1]
  clear hm
  cases m <;>
    simp [State.Phase, State.InTxn, State.Running, State.Starting, State.StartArmed, State.Sending, State.Loaded,
      State.Counted, State.SendArmed, State.Stopping, State.StopArmed, State.QuantumLeft] <;>
    grind

end Sys2Proof.Machine
end

section
/-! PROOFS. Every row of the transition table keeps the invariant, and none stops. -/

namespace Sys2Proof.Machine

/-! ## What the assertions give -/

theorem depth_of_wf {c : Config} (h : c.wf = true) : 0 < c.fifoDepthBytes ∧ c.fifoDepthBytes = 4 * c.fifoWords := by
  simp only [Config.wf, Bool.and_eq_true, decide_eq_true_eq, beq_iff_eq] at h
  rw [Config.fifoWords]
  omega

theorem State.Requested.exists {s : State} (h : s.Requested) : ∃ a r d, s.seq.devaddr = some a ∧
    s.seq.p = some (BitVec.ofNat 32 r.length) ∧ s.seq.l = some (BitVec.ofNat 32 d.length) ∧
    s.seq.r = some r ∧ s.seq.d = some d ∧
    s.seq.total = 1 + r.length + d.length ∧ 1 + r.length + d.length < 2 ^ 32 := by
  obtain ⟨-, ha, hr, hd, hp, hl, htotal⟩ := h
  obtain ⟨a, ha⟩ := Option.isSome_iff_exists.1 ha
  obtain ⟨r, hr⟩ := Option.isSome_iff_exists.1 hr
  obtain ⟨d, hd⟩ := Option.isSome_iff_exists.1 hd
  have hlen : s.seq.total = 1 + r.length + d.length := by simp [SeqRegs.total, hr, hd]
  exact ⟨a, r, d, ha, by rw [hp, hr]; rfl, by rw [hl, hd]; rfl, hr, hd, hlen, hlen ▸ htotal⟩

theorem State.OnStream.exists {s : State} (h : s.OnStream) : ∃ rem off, s.seq.bytesRem = some rem ∧
    s.seq.streamOff = some off ∧ off.toNat + rem.toNat = s.seq.total := by
  obtain ⟨hrem, hoff, hsum⟩ := h
  obtain ⟨rem, hrem⟩ := Option.isSome_iff_exists.1 hrem
  obtain ⟨off, hoff⟩ := Option.isSome_iff_exists.1 hoff
  exact ⟨rem, off, hrem, hoff, by simpa [hrem, hoff] using hsum⟩

theorem State.onStream_of_eq {s : State} {rem off : Word} (hrem : s.seq.bytesRem = some rem)
    (hoff : s.seq.streamOff = some off) (hsum : off.toNat + rem.toNat = s.seq.total) : s.OnStream := by
  simp [State.OnStream, hrem, hoff, hsum]

theorem State.Budgeted.exists {s : State} (h : s.Budgeted) :
    ∃ n, s.seq.countdown = some n ∧ n ≤ s.cfg.timeoutBudget := by
  obtain ⟨hn, hle⟩ := h
  obtain ⟨n, hn⟩ := Option.isSome_iff_exists.1 hn
  exact ⟨n, hn, by simpa [hn] using hle⟩

theorem State.budgeted_of_eq {s : State} {n : Word} (hn : s.seq.countdown = some n) (hle : n ≤ s.cfg.timeoutBudget) :
    s.Budgeted := by
  simp [State.Budgeted, hn, hle]

theorem State.quantumLeft_of_eq {s : State} {n : Word} (hb : s.Budgeted) (hn : s.seq.countdown = some n)
    (hne : n ≠ 0#32) : s.QuantumLeft := by
  simp [State.QuantumLeft, hb, hn, hne]

/-- The registers of a chunk being sent. -/
theorem State.Sending.exists {s : State} (h : s.Sending) : ∃ rem off, s.seq.bytesRem = some rem ∧
    s.seq.streamOff = some off ∧ off.toNat + rem.toNat = s.seq.total ∧
    s.seq.chunkSize = some (chunkSizeOf s.cfg.fifoDepthBytes rem) ∧
    s.seq.wordCnt = some (wordCountOf (chunkSizeOf s.cfg.fifoDepthBytes rem)) ∧
    off.toNat % s.cfg.fifoDepthBytes = 0 := by
  obtain ⟨⟨-, hstream⟩, -, hsize, hcnt, hmod⟩ := h
  obtain ⟨rem, off, hrem, hoff, hsum⟩ := hstream.exists
  rw [hrem] at hsize
  rw [hsize] at hcnt
  rw [hoff] at hmod
  exact ⟨rem, off, hrem, hoff, hsum, hsize, hcnt, hmod⟩

theorem State.SendArmed.running {s : State} (h : s.SendArmed) : s.Running := by
  obtain ⟨⟨⟨⟨hrun, -⟩, -⟩, -⟩, -⟩ := h
  exact hrun

theorem State.SendArmed.exists_err {s : State} (h : s.SendArmed) :
    ∃ x, s.seq.err = some x ∧ x ≠ .error .timeout := by
  obtain ⟨-, -, hx, hne⟩ := h
  obtain ⟨x, hx⟩ := Option.isSome_iff_exists.1 hx
  exact ⟨x, hx, fun h => hne (hx.trans (congrArg some h))⟩

/-- A recorded NACK is no timeout. -/
theorem record_noAck_ne_timeout {x : ErrLatch} (h : x ≠ .error .timeout) : x.record .noAck ≠ .error .timeout := by
  cases x with
  | noError => simp [ErrLatch.record]
  | error e => exact h

/-! ## Sizes -/

theorem toNat_totalBytes {p l : Word} (h : 1 + p.toNat + l.toNat < 2 ^ 32) :
    (totalBytes p l).toNat = 1 + p.toNat + l.toNat := by
  simp only [totalBytes, BitVec.toNat_add, BitVec.toNat_ofNat]
  omega

theorem toNat_chunkSizeOf (depth : Nat) (rem : Word) : (chunkSizeOf depth rem).toNat = min rem.toNat depth := by
  rw [chunkSizeOf, BitVec.toNat_ofNat]
  exact Nat.mod_eq_of_lt ((Nat.min_le_left _ _).trans_lt rem.isLt)

theorem toNat_wordCountOf (size : Word) : (wordCountOf size).toNat = (size.toNat + 3) / 4 := by
  rw [wordCountOf, BitVec.toNat_ofNat]
  omega

/-- A chunk has no more words than there are `TXDATA` registers. -/
theorem toNat_wordCountOf_chunkSizeOf_le {c : Config} (h : c.wf = true) (rem : Word) :
    (wordCountOf (chunkSizeOf c.fifoDepthBytes rem)).toNat ≤ c.fifoWords := by
  obtain ⟨-, hdepth⟩ := depth_of_wf h
  rw [toNat_wordCountOf, toNat_chunkSizeOf]
  omega

/-- A chunk with bytes left has a word. -/
theorem zero_lt_wordCountOf_chunkSizeOf {c : Config} (h : c.wf = true) {rem : Word} (hrem : rem ≠ 0#32) :
    0#32 < wordCountOf (chunkSizeOf c.fifoDepthBytes rem) := by
  obtain ⟨hdepth, -⟩ := depth_of_wf h
  have hpos : rem.toNat ≠ 0 := fun h0 => hrem (BitVec.eq_of_toNat_eq h0)
  rw [BitVec.lt_def, toNat_wordCountOf, toNat_chunkSizeOf, BitVec.toNat_ofNat]
  omega

/-- No index inside the stream reads outside a buffer (spec/43_packer.md R142). -/
theorem streamByte_isSome (a : BitVec 7) {r d : List Byte} {k : Nat} (h : k < 1 + r.length + d.length) :
    (streamByte a r.length d.length r d k).isSome = true := by
  unfold streamByte
  split
  · rfl
  split
  next h0 hk => simp; omega
  next h0 hk => simp; omega

/-- A lane is inside the stream, or past the chunk and 0x00. -/
theorem laneByte_isSome {stream : Nat → Option Byte} {off chunk : Nat}
    (h : ∀ k < off + chunk, (stream k).isSome = true) (pos : Nat) : (laneByte stream off chunk pos).isSome = true := by
  unfold laneByte
  split
  next hpos => exact h _ (Nat.add_lt_add_left hpos off)
  next => rfl

theorem exists_fifoWord {stream : Nat → Option Byte} {off chunk : Nat}
    (h : ∀ k < off + chunk, (stream k).isSome = true) (i : Nat) : ∃ w, fifoWord stream off chunk i = some w := by
  have lane := fun pos => Option.isSome_iff_exists.1 (laneByte_isSome h pos)
  obtain ⟨b0, h0⟩ := lane (4 * i)
  obtain ⟨b1, h1⟩ := lane (4 * i + 1)
  obtain ⟨b2, h2⟩ := lane (4 * i + 2)
  obtain ⟨b3, h3⟩ := lane (4 * i + 3)
  exact ⟨wordOfBytes b0 b1 b2 b3, by simp only [fifoWord, h0, h1, h2, h3]⟩

/-- The scan stays in its range until it has passed the last address. -/
theorem probed_succ {a : BitVec 8} (h : probed a = true) (hlast : ¬ scanLast < a + 1#8) :
    probed (a + 1#8) = true := by
  simp only [probed, Bool.and_eq_true, decide_eq_true_eq] at h ⊢
  simp only [scanFirst, scanLast] at h hlast ⊢
  bv_omega

/-! ## Rows -/

/-- The answer is a next state, and it meets the invariant. -/
def Lands (o : Answer) : Prop := ∃ t, o = .next t ∧ t.Inv

/-- A state that meets its micro-state's assertion meets the invariant. -/
theorem Lands.at {t : State} (m : MicroState) (hm : t.isAt m) (hc : t.ConfigOk) (h : t.Phase m) : Lands (.next t) :=
  ⟨t, rfl, (inv_iff_phase hm).2 ⟨hc, h⟩⟩

theorem Lands.goto {t : State} {m : MicroState} (hc : t.ConfigOk) (h : (t.goto m).Phase m) : Lands (.next (t.goto m)) :=
  .at m rfl hc h

/-- A register that holds a value is read. -/
theorem Lands.need {α : Type} {reg : SeqReg} {x : Option α} {a : α} {k : α → Answer} (hx : x = some a)
    (h : Lands (k a)) : Lands (need reg x k) := by
  rw [hx]
  exact h

theorem Lands.ifSeen {b : Bool} {t : State} {o : Answer} (ht : b = true → Lands (.next t)) (ho : Lands o) :
    Lands (ifSeen b t o) := by
  rw [ifSeen_eq]
  split
  next hb => exact ht hb
  next => exact ho

/-- A store of a word that exists to a register that exists. -/
theorem Lands.txdataWrite {s : State} {i w : Word} {v : Option Word} {k : State → Answer}
    (hi : i.toNat < s.cfg.fifoWords) (hv : v = some w) (hk : Lands (k (s.regWrite (.txdata i.toNat) w))) :
    Lands (txdataWrite i v s k) := by
  unfold Machine.txdataWrite
  rw [if_pos hi, hv]
  exact hk

section
variable {s : State} (hc : s.ConfigOk)
include hc

/-- A quantum leaves the budget to the next check. -/
theorem quantumStep_lands {m : MicroState} (h : s.QuantumLeft)
    (hm : ∀ n : Word, let t := ((s.delay pollQuantumUs).setCountdown n).goto m; t.Budgeted → t.Phase m) :
    Lands (quantumStep m s) := by
  obtain ⟨hb, hne⟩ := h
  obtain ⟨n, hn, hle⟩ := hb.exists
  rw [hn, Option.getD_some] at hne
  have hpred : n - 1#32 ≤ s.cfg.timeoutBudget := by bv_omega
  exact .need hn (.goto hc (hm _ (State.budgeted_of_eq rfl hpred)))

/-- The store before a wait gives it its budget. -/
theorem armStep_lands {m : MicroState} {v : Word}
    (hm : let t := ((s.regWrite .ien v).setCountdown s.cfg.timeoutBudget).goto m; t.Budgeted → t.Phase m) :
    Lands (armStep v m s) :=
  .goto hc (hm (State.budgeted_of_eq rfl (BitVec.le_refl _)))

/-- A wait's last part: it times out, or it goes on to the delay. -/
theorem orTimeout_lands {x : ErrLatch} {timedOut again : MicroState} (hb : s.Budgeted) (hx : s.seq.err = some x)
    (hto : ((s.record x .timeout).goto timedOut).Phase timedOut)
    (hagain : s.QuantumLeft → (s.goto again).Phase again) : Lands (s.orTimeout timedOut again) := by
  obtain ⟨n, hn, -⟩ := hb.exists
  rw [orTimeout_of_latch timedOut again hn hx]
  split
  next => exact .goto hc hto
  next hne => exact .goto hc (hagain (State.quantumLeft_of_eq hb hn hne))

theorem execTxnInit_lands (h : s.Phase .txnInit) : Lands (execTxnInit s) := by
  obtain ⟨hreq, hprobe⟩ := h
  obtain ⟨a, r, d, ha, hp, hl, hr, hd, htotal, hlt⟩ := hreq.exists
  have hbytes : (totalBytes (BitVec.ofNat 32 r.length) (BitVec.ofNat 32 d.length)).toNat = s.seq.total := by
    rw [toNat_totalBytes] <;> simp only [BitVec.toNat_ofNat] <;> omega
  exact .need hp <| .need hl <| .goto hc
    ⟨⟨⟨hreq, hprobe⟩, State.onStream_of_eq rfl rfl ((Nat.zero_add _).trans hbytes)⟩, rfl, rfl⟩

/-- A chunk set up with bytes left is ready to load. -/
theorem chunkSetup_lands {rem off : Word} (h : s.Running) (hx : s.seq.err = some .noError)
    (hrem : s.seq.bytesRem = some rem) (hne : rem ≠ 0#32) (hoff : s.seq.streamOff = some off)
    (hmod : off.toNat % s.cfg.fifoDepthBytes = 0) : Lands (.next ((s.chunkSetup rem).goto .txFifo)) := by
  have hset : (s.chunkSetup rem).ChunkSet := by simp [State.ChunkSet, hrem, hoff, hne, hmod]
  exact .goto hc ⟨⟨h, hset⟩, hx, rfl, zero_lt_wordCountOf_chunkSizeOf hc.1 hne⟩

theorem execStAck_lands (h : s.Phase .stAck) : Lands (execStAck s) := by
  obtain ⟨⟨hrun, hx, hoff⟩, -, -⟩ := h
  obtain ⟨rem, off, hrem, hoff', hsum⟩ := hrun.2.exists
  obtain rfl : 0#32 = off := Option.some.inj (hoff.symm.trans hoff')
  have hne : rem ≠ 0#32 := by
    rintro rfl
    rw [SeqRegs.total] at hsum
    simp at hsum
    omega
  exact .need hrem
    (chunkSetup_lands (s := s.regWrite .ipd (s.cfg.layout.mask .start)) hc hrun hx hrem hne hoff (Nat.zero_mod _))

theorem execTxFifo_lands (h : s.Phase .txFifo) : Lands (execTxFifo s) := by
  obtain ⟨hsend, hx, hi, hlt⟩ := h
  obtain ⟨i, hi⟩ := Option.isSome_iff_exists.1 hi
  obtain ⟨rem, off, hrem, hoff, hsum, hsize, hcnt, hmod⟩ := hsend.exists
  obtain ⟨a, r, d, ha, hp, hl, hr, hd, htotal, hlen⟩ := hsend.1.1.1.exists
  rw [hi, hcnt, Option.getD_some, Option.getD_some] at hlt
  have hp' : (BitVec.ofNat 32 r.length).toNat = r.length := by rw [BitVec.toNat_ofNat]; omega
  have hl' : (BitVec.ofNat 32 d.length).toNat = d.length := by rw [BitVec.toNat_ofNat]; omega
  have hchunk := toNat_chunkSizeOf s.cfg.fifoDepthBytes rem
  obtain ⟨w, hw⟩ := exists_fifoWord (stream := streamByte a r.length d.length r d) (off := off.toNat)
    (chunk := (chunkSizeOf s.cfg.fifoDepthBytes rem).toNat) (fun k hk => streamByte_isSome a (by omega)) i.toNat
  refine .need hi <| .need hcnt <| .need ha <| .need hp <| .need hl <| .need hr <| .need hd <| .need hoff <|
    .need hsize <| Lands.txdataWrite (w := w) (hlt.trans_le (toNat_wordCountOf_chunkSizeOf_le hc.1 rem)) ?_ ?_
  · rw [hp', hl', hw]
  have hc' : (s.regWrite (.txdata i.toNat) w).ConfigOk := ⟨hc.1, (store_txdata_length _ _ _ _).trans hc.2⟩
  split
  next hlast => exact .goto hc' ⟨⟨hsend, (congrArg some hlast).trans hcnt.symm⟩, hx⟩
  next hmore =>
    refine .goto hc' ⟨hsend, hx, rfl, ?_⟩
    show i + 1#32 < s.seq.wordCnt.getD 0#32
    rw [hcnt, Option.getD_some]
    bv_omega

theorem checkStep_lands {f : Flag} {found timedOut again : MicroState} {x : ErrLatch} (hb : s.Budgeted)
    (hx : s.seq.err = some x) (hfound : (s.sampleIpd.goto found).Phase found)
    (hto : ((s.sampleIpd.record x .timeout).goto timedOut).Phase timedOut)
    (hagain : s.QuantumLeft → (s.sampleIpd.goto again).Phase again) :
    Lands (checkStep f found timedOut again s) :=
  .ifSeen (fun _ => .goto hc hfound) (orTimeout_lands (s := s.sampleIpd) hc hb hx hto hagain)

theorem execTxChk_lands (h : s.Phase .txChk) : Lands (execTxChk s) := by
  obtain ⟨harmed, hb⟩ := h
  obtain ⟨x, hx, -⟩ := harmed.exists_err
  exact .ifSeen (fun hnak => .goto hc ⟨harmed, hb, hnak⟩) (.ifSeen (fun _ => .goto hc harmed)
    (orTimeout_lands (s := s.sampleIpd) hc hb hx ⟨harmed.running, rfl⟩ fun hq => ⟨harmed, hq⟩))

theorem execTxNak_lands (h : s.Phase .txNak) : Lands (execTxNak s) := by
  obtain ⟨harmed, hb, hv⟩ := h
  obtain ⟨x, hx, hne⟩ := harmed.exists_err
  obtain ⟨v, hv⟩ := Option.isSome_iff_exists.1 (Option.isSome_of_any hv)
  obtain ⟨n, hn, -⟩ := hb.exists
  have hrecord : ((s.regWrite .ipd (s.cfg.layout.mask .nakrcv)).record x .noAck).SendArmed :=
    ⟨harmed.1, harmed.2.1, rfl, fun h => record_noAck_ne_timeout hne (Option.some.inj h)⟩
  rw [execTxNak_of_latch hv hn hx]
  refine .goto hc ?_
  split
  next => exact hrecord -- a completion in the same sample
  split
  next => exact ⟨harmed.running, rfl⟩
  next hne => exact ⟨hrecord, State.quantumLeft_of_eq hb hn hne⟩

/-- The advance by a chunk: the end of the stream, or the next chunk at the next multiple of the depth. -/
theorem advance_lands {rem off size : Word} (h : s.Running) (hx : s.seq.err = some .noError)
    (hsum : off.toNat + rem.toNat = s.seq.total) (hsize : size.toNat = min rem.toNat s.cfg.fifoDepthBytes)
    (hmod : off.toNat % s.cfg.fifoDepthBytes = 0) : Lands (.next (s.advance (rem - size) (off + size))) := by
  obtain ⟨_, _, _, -, -, -, -, -, htotal, hlt⟩ := h.1.1.exists
  have hrem : (rem - size).toNat = rem.toNat - size.toNat := BitVec.toNat_sub_of_le (by rw [BitVec.le_def]; omega)
  have hoff : (off + size).toNat = off.toNat + size.toNat := by rw [BitVec.toNat_add]; omega
  let t : State := { s with seq := { s.seq with bytesRem := some (rem - size), streamOff := some (off + size) } }
  have hsum' : (off + size).toNat + (rem - size).toNat = s.seq.total := by omega
  have hrun : t.Running := ⟨h.1, State.onStream_of_eq rfl rfl hsum'⟩
  unfold State.advance
  dsimp only
  split
  next => exact .goto (t := t) hc ⟨hrun, hx ▸ rfl⟩
  next hne =>
    have hpos : (rem - size).toNat ≠ 0 := fun h0 => hne (BitVec.eq_of_toNat_eq h0)
    have hfull : size.toNat = s.cfg.fifoDepthBytes := by omega
    exact chunkSetup_lands (s := t) hc hrun hx rfl hne rfl (by rw [hoff, hfull, Nat.add_mod_right]; exact hmod)

theorem execTxAck_lands (h : s.Phase .txAck) : Lands (execTxAck s) := by
  obtain ⟨⟨⟨hsend, -⟩, -⟩, -, hx, -⟩ := h
  obtain ⟨rem, off, hrem, hoff, hsum, hsize, -, hmod⟩ := State.Sending.exists hsend
  obtain ⟨x, hx⟩ := Option.isSome_iff_exists.1 hx
  cases x with
  | error e => exact .need hx (.goto hc ⟨hsend.1, hx ▸ rfl⟩)
  | noError =>
    exact .need hx <| .need hrem <| .need hoff <| .need hsize <|
      advance_lands (s := s.regWrite .ipd (s.cfg.layout.mask .mbtf)) hc hsend.1 hx hsum (toNat_chunkSizeOf _ _) hmod

theorem execRet_lands (h : s.Phase .ret) : Lands (execRet s) := by
  obtain ⟨⟨⟨⟨hreq, hprobe⟩, -⟩, hx⟩, hcon, hien⟩ := h
  obtain ⟨x, hx⟩ := Option.isSome_iff_exists.1 hx
  obtain ⟨a, -, -, ha, -⟩ := hreq.exists
  rcases hreq.1 with hcmd | hcmd
  · exact .need hcmd <| .need hx <| .goto hc ⟨hcmd ▸ rfl, fun _ => hcon⟩
  · exact .need hcmd <| .need hx <| .need ha <| .goto hc ⟨⟨hcmd, (hprobe hcmd).1⟩, hcon, hien⟩

theorem execScNext_lands (h : s.Phase .scNext) : Lands (execScNext s) := by
  obtain ⟨hcmd, haddr⟩ := h
  obtain ⟨a, ha⟩ : ∃ a, s.seq.scanAddr = some a := Option.isSome_iff_exists.1 (Option.isSome_of_any haddr)
  refine .need ha <| .goto hc ⟨⟨.inr hcmd, rfl, rfl, rfl, rfl, rfl, ?_⟩, fun _ => ⟨haddr, ?_, rfl, rfl⟩⟩
  · show 1 + 1 + 0 < 2 ^ 32
    omega
  · simp [ha]

theorem execScDly_lands (h : s.Phase .scDly) : Lands (execScDly s) := by
  obtain ⟨⟨hcmd, haddr⟩, hcon, -⟩ := h
  obtain ⟨a, ha⟩ : ∃ a, s.seq.scanAddr = some a := Option.isSome_iff_exists.1 (Option.isSome_of_any haddr)
  refine .need ha ?_
  dsimp only
  split
  next => exact .goto hc ⟨hcmd ▸ rfl, fun _ => hcon⟩
  next hlast =>
    have hnext : probed (a + 1#8) = true := probed_succ (by simpa [ha] using haddr) hlast
    exact .goto hc ⟨hcmd, hnext⟩

/-- While a command runs, every row gives a next state, and that meets the invariant again. -/
theorem exec_ofMicro_lands {m : MicroState} (hm : m ≠ .idle) (h : s.Phase m) : Lands (exec (Instr.ofMicro m) s) := by
  cases m with
  | idle => exact absurd rfl hm
  | ckSel => exact .need h.2 (.goto hc h)
  | ckDiv => exact .need h.2 (.goto hc ⟨h.1 ▸ rfl, fun hne => absurd h.1 hne⟩)
  | txnInit => exact execTxnInit_lands hc h
  | stClr => exact .goto hc h
  | stCon => exact .goto hc ⟨h, rfl⟩
  | stIen => exact armStep_lands hc fun hb => ⟨⟨h.1, h.2, rfl⟩, hb⟩
  | stChk =>
    obtain ⟨harmed, hb⟩ := h
    exact checkStep_lands hc hb harmed.1.2.1 harmed ⟨harmed.1.1, rfl⟩ fun hq => ⟨harmed, hq⟩
  | stAck => exact execStAck_lands hc h
  | stDly => exact quantumStep_lands hc h.2 fun _ hb => ⟨h.1, hb⟩
  | txFifo => exact execTxFifo_lands hc h
  | txCon => exact .goto hc ⟨h.1, h.2, rfl⟩
  | txCnt =>
    obtain ⟨hloaded, hx, hcon⟩ := h
    obtain ⟨rem, -, -, -, -, hsize, -⟩ := hloaded.1.exists
    exact .need hsize (.goto hc ⟨⟨hloaded, hcon, hsize.symm⟩, hx⟩)
  | txIen =>
    obtain ⟨hcounted, hx⟩ := h
    exact armStep_lands hc fun hb => ⟨⟨hcounted, rfl, by simp [hx], by simp [hx]⟩, hb⟩
  | txChk => exact execTxChk_lands hc h
  | txNak => exact execTxNak_lands hc h
  | txAck => exact execTxAck_lands hc h
  | txDly => exact quantumStep_lands hc h.2 fun _ hb => ⟨h.1, hb⟩
  | spClr => exact .goto hc h
  | spCon => exact .goto hc ⟨h, rfl⟩
  | spIen => exact armStep_lands hc fun hb => ⟨⟨h.1, h.2, rfl⟩, hb⟩
  | spChk =>
    obtain ⟨harmed, hb⟩ := h
    obtain ⟨x, hx⟩ := Option.isSome_iff_exists.1 harmed.1.2
    exact checkStep_lands hc hb hx harmed ⟨⟨harmed.1.1, rfl⟩, harmed.2⟩ fun hq => ⟨harmed, hq⟩
  | spAck => exact .goto hc h
  | spDly => exact quantumStep_lands hc h.2 fun _ hb => ⟨h.1, hb⟩
  | dis => exact .goto hc ⟨h.1, rfl, h.2.2⟩
  | ret => exact execRet_lands hc h
  | scNext => exact execScNext_lands hc h
  | scDly => exact execScDly_lands hc h
  | done => exact .goto hc rfl
end

end Sys2Proof.Machine
end

section
/-! PROOFS. What a step runs, and that it keeps the invariant; launch, and the end of a command. -/

namespace Sys2Proof.Machine

/-! ## What a step runs -/

/-- A refused descriptor is refused for what is wrong with it, never for a code of `upc`. -/
theorem stopOf_of_decodeCommand {ws : List Word} {e : DecodeError} (h : decodeCommand ws = .error e) :
    stopOf e = .refused (.malformed e) := by
  have hcode : ∀ c, e ≠ .unusedMicroCode c := by
    rintro c rfl
    unfold decodeCommand decodeOp decodeWrtxn at h
    dsimp only at h
    (repeat' split at h) <;> cases h
  cases e with
  | unusedMicroCode c => exact absurd rfl (hcode c)
  | tooShort | reservedBits | strayAddress | tooLong | noSuchEntry => rfl

/-- A command that an idle block runs is accepted or refused. -/
theorem exec_ofCommand {s : State} (hi : s.isAt .idle) (c : Command) : exec (Instr.ofCommand c) s = accept c s := by
  cases c with
  | cfgclk hz => exact if_pos hi
  | wrtxn a r d => exact if_pos hi
  | scan => exact if_pos hi
  | reservedOp3 rest => rfl

/-- An idle block runs IDLE's row: the command at the port, or nothing. -/
theorem runFetched_idle {s : State} (hi : s.isAt .idle) : runFetched s = execIdle s := by
  unfold runFetched State.fetch execIdle
  cases hp : s.port with
  | none =>
    have hu : s.upc = MicroState.code .idle := hi
    simp only [decode, hu, decodeMicro_code]
    show execIdle s = _
    rw [execIdle, hp]
  | some ws =>
    simp only [if_pos hi, decode]
    cases hd : decodeCommand ws with
    | error e => exact stopOf_of_decodeCommand hd
    | ok c => exact exec_ofCommand hi c

/-- At a micro-state, its row runs. -/
theorem runFetched_row {s : State} {m : MicroState} (hm : s.isAt m) : runFetched s = exec (Instr.ofMicro m) s := by
  by_cases hi : m = .idle
  · subst hi
    exact runFetched_idle hm
  · exact runFetched_at hm hi

/-- An unused code stops the machine. -/
theorem runFetched_unused {s : State} (h : ∀ m, ¬ s.isAt m) : runFetched s = .fault (.unusedCode s.upc) := by
  have hc : MicroState.ofCode s.upc = none := by
    cases hc : MicroState.ofCode s.upc with
    | none => rfl
    | some m => exact absurd (code_of_ofCode hc).symm (h m)
  have hd : decode s.fetch = .error (.unusedMicroCode s.upc) := by
    rw [fetch_of_busy s (h .idle)]
    simp [decode, decodeMicro, hc]
  rw [runFetched, hd]
  rfl

/-- What runs is the row of the micro-state, or the stop of an unused code. -/
theorem runFetched_cases (s : State) : (∃ m, s.isAt m ∧ runFetched s = exec (Instr.ofMicro m) s) ∨
    runFetched s = .fault (.unusedCode s.upc) := by
  by_cases h : ∃ m, s.isAt m
  · obtain ⟨m, hm⟩ := h
    exact .inl ⟨m, hm, runFetched_row hm⟩
  · exact .inr (runFetched_unused (not_exists.1 h))

/-- The 29 codes are those of the micro-states. -/
theorem exists_isAt_of_codeOk {s : State} (h : s.CodeOk) : ∃ m, s.isAt m := by
  have table : ∀ c : BitVec 5, c.toNat < 29 → (MicroState.ofCode c).isSome = true := by decide
  obtain ⟨m, hm⟩ := Option.isSome_iff_exists.1 (table _ h)
  exact ⟨m, (code_of_ofCode hm).symm⟩

/-! ## The invariant along a step -/

/-- An idle block without values meets the invariant, whatever the bank. -/
theorem inv_of_noValues {s : State} (hc : s.ConfigOk) (hi : s.isAt .idle) (hq : s.seq = SeqRegs.noValues) : s.Inv :=
  (inv_iff_phase hi).2 ⟨hc, hq⟩

theorem State.Inv.ctlMove {s : State} (h : s.Inv) (m : EnvMove) : (s.ctlMove m).Inv :=
  (inv_iff (s.ctlMove m)).2 ((inv_iff s).1 h)

theorem State.Inv.hostMove {s : State} (h : s.Inv) (hm : HostMove) : (s.hostMove hm).Inv := by
  cases hm with
  | quiet => exact h
  | reset => exact inv_of_noValues h.config rfl rfl
  | present ws =>
    unfold State.hostMove
    dsimp only
    split
    next hi => exact inv_of_noValues h.config hi (h.idle hi)
    next => exact h
  | poke reg v =>
    unfold State.hostMove
    dsimp only
    split
    next hi => exact inv_of_noValues ⟨h.config.1, (store_txdata_length _ _ _ _).trans h.config.2⟩ hi (h.idle hi)
    next => exact h

/-- The environment's turn keeps the invariant. -/
theorem State.Inv.envTurn {s : State} (h : s.Inv) : s.envTurn.Inv := (h.ctlMove s.envMove).hostMove s.envMove.host

/-- What the invariant leaves a step: a next state that meets it again, or a refusal. -/
def Sound (o : Answer) : Prop := Lands o ∨ ∃ r, o = .refused r

theorem accept_sound {s : State} (hc : s.ConfigOk) (c : Command) : Sound (accept c s) := by
  cases c with
  | cfgclk hz =>
    simp only [accept, acceptCfgclk]
    split
    next => exact .inr ⟨_, rfl⟩
    next h =>
      obtain ⟨-, hz⟩ := not_or.1 h
      exact .inl (.at .ckSel rfl hc ⟨rfl, congrArg some (not_not.1 hz)⟩)
  | wrtxn a r d =>
    simp only [accept, acceptWrtxn]
    split
    next h =>
      exact .inl (.at .txnInit rfl hc ⟨⟨.inl rfl, rfl, rfl, rfl, rfl, rfl, of_decide_eq_true h⟩, nofun⟩)
    next => exact .inr ⟨_, rfl⟩
  | scan => exact .inl (.at .scNext rfl hc ⟨rfl, (by decide : probed scanFirst = true)⟩)
  | reservedOp3 rest => exact .inr ⟨_, rfl⟩

theorem execIdle_sound {s : State} (hc : s.ConfigOk) (h : s.Phase .idle) : Sound (execIdle s) := by
  unfold execIdle
  split
  next => exact .inl (.goto hc h)
  split
  next => exact accept_sound hc _
  next => exact .inr ⟨_, rfl⟩

/-- A step from the invariant: the environment's turn, then a row that meets its assertion. -/
theorem step_sound {s : State} (h : s.Inv) : Sound (step s) := by
  by_cases hr : s.envMove.host = .reset
  · exact .inl ⟨_, step_of_reset s hr, h.envTurn⟩
  rw [step_of_noReset s hr]
  obtain ⟨m, hm⟩ := exists_isAt_of_codeOk h.envTurn.code
  obtain ⟨hc, hphase⟩ := (inv_iff_phase hm).1 h.envTurn
  rw [runFetched_row hm]
  by_cases hi : m = .idle
  · subst hi
    exact execIdle_sound hc hphase
  · exact .inl (exec_ofMicro_lands hc hi hphase)

/-- Settles O49: every row of the transition table that meets its assertion meets its successor's. -/
theorem invariantIsKeptByEveryStep : Obligations.InvariantIsKeptByEveryStep := by
  unfold Obligations.InvariantIsKeptByEveryStep
  intro s t h hstep
  rcases step_sound h with ⟨u, hu, hinv⟩ | ⟨r, hr⟩
  · cases hstep.symm.trans hu
    exact hinv
  · cases hstep.symm.trans hr

/-- Settles O50: under the invariant a step ends in a next state or a refusal. -/
theorem noFaultIsReachable : Obligations.NoFaultIsReachable := by
  unfold Obligations.NoFaultIsReachable
  intro s r h hstep
  rcases step_sound h with ⟨u, hu, -⟩ | ⟨r', hr⟩
  · cases hstep.symm.trans hu
  · cases hstep.symm.trans hr

/-- Settles O48: at launch no register holds a value. -/
theorem invariantHoldsAtLaunch : Obligations.InvariantHoldsAtLaunch := by
  unfold Obligations.InvariantHoldsAtLaunch
  refine ⟨fun c b s hs => ?_, inv_of_noValues ⟨by decide, by decide⟩ rfl rfl⟩
  unfold instantiate at hs
  split at hs
  next h =>
    cases hs
    rw [Bool.and_eq_true, decide_eq_true_eq] at h
    exact inv_of_noValues h rfl rfl
  next => cases hs

/-- Settles O58: `DIS` has zeroed `CON` before DONE, and the invariant says so there. -/
theorem commandEndsDisabled : Obligations.CommandEndsDisabled := by
  unfold Obligations.CommandEndsDisabled
  intro s h hm hr hcmd
  obtain ⟨-, -, hcon⟩ := (inv_iff_phase hm).1 h
  exact ⟨_, step_at hm (by decide) hr, rfl, hcon hcmd, rfl, rfl⟩

end Sys2Proof.Machine
end

section
/-! PROOFS. What each row may write: the bank, the clock-selection register, the latches. -/

namespace Sys2Proof.Machine

/-! ## Answers that are no refusal -/

/-- The answer is no refusal, and a next state has the property. -/
def Answers (P : State → Prop) : Answer → Prop
  | .next t => P t
  | .fault _ => True
  | .refused _ => False

namespace Answers

variable {P : State → Prop}

theorem need {α : Type} {reg : SeqReg} {x : Option α} {k : α → Answer} (h : ∀ a, x = some a → Answers P (k a)) :
    Answers P (need reg x k) := by
  cases x with
  | none => trivial
  | some a => exact h a rfl

theorem ifSeen {b : Bool} {t : State} {o : Answer} (ht : P t) (ho : Answers P o) : Answers P (ifSeen b t o) := by
  rw [ifSeen_eq]
  split
  · exact ht
  · exact ho

theorem txdataWrite {s : State} {i : Word} {v : Option Word} {k : State → Answer}
    (h : ∀ w, Answers P (k (s.regWrite (.txdata i.toNat) w))) : Answers P (txdataWrite i v s k) := by
  unfold Machine.txdataWrite
  split
  · cases v with
    | some w => exact h w
    | none => trivial
  · trivial

theorem of_next {o : Answer} {t : State} (h : Answers P o) (ho : o = .next t) : P t := by
  rw [ho] at h
  exact h

theorem ne_refused {o : Answer} (h : Answers P o) (r : Refusal) : o ≠ .refused r := by
  rintro rfl
  exact h

end Answers

/-! ## What a row may write -/

/-- The row of `m` may store `v` to this register (spec/10_state.md R34, spec/60_exceptions.md R204). -/
def MayStore (y : Layout) (m : MicroState) (v : Word) : Reg → Prop
  | .con => m ∈ [.stCon, .txCon, .spCon, .dis]
  | .ien => m ∈ [.stIen, .txIen, .spIen]
  | .clkdiv => m = .ckDiv
  | .mtxcnt => m = .txCnt
  | .txdata _ => m = .txFifo
  | .ipd => y.wf = true → ∀ f, hasFlag y v f = true → m ∈ clearedIn f

/-- The request latch (spec/10_state.md R22). -/
def SeqRegs.request (q : SeqRegs) : Option (BitVec 7) × Option Word × Option Word × Option (List Byte) ×
    Option (List Byte) := (q.devaddr, q.p, q.l, q.r, q.d)

/-- A recorded error of `q` is the recorded error of `q'`. -/
def SeqRegs.KeepsError (q q' : SeqRegs) : Prop := ∀ e, q.err = some (.error e) → q'.err = some (.error e)

theorem SeqRegs.KeepsError.of_eq {q q' : SeqRegs} (h : q'.err = q.err) : q.KeepsError q' := fun _ he => h.trans he

/-- `record` keeps the first error. -/
theorem SeqRegs.KeepsError.of_record {q q' : SeqRegs} {x : ErrLatch} {e : ErrKind} (hx : q.err = some x)
    (h : q'.err = some (x.record e)) : q.KeepsError q' := by
  intro e' he
  obtain rfl : x = .error e' := Option.some.inj (hx.symm.trans he)
  exact h

/-- What the row of `m` may change from `s` to `t`. -/
structure RowFrame (m : MicroState) (s t : State) : Prop where
  bank : t.bank = s.bank ∨
    ∃ reg v, MayStore s.cfg.layout m v reg ∧ t.bank = s.bank.store s.cfg.layout reg v
  clkSel : m ≠ .ckSel → t.clkSelStores = s.clkSelStores
  err : m ∉ [.txnInit, .ret, .done] → s.seq.KeepsError t.seq
  request : m ∈ txnStates → m ≠ .ret → t.seq.request = s.seq.request

/-- A row that stores once to the bank, and records errors at most. -/
theorem RowFrame.of_store {m : MicroState} {s t : State} {reg : Reg} {v : Word} (hmay : MayStore s.cfg.layout m v reg)
    (hb : t.bank = s.bank.store s.cfg.layout reg v) (hcs : t.clkSelStores = s.clkSelStores)
    (he : s.seq.KeepsError t.seq) (hreq : t.seq.request = s.seq.request) : RowFrame m s t :=
  ⟨.inr ⟨reg, v, hmay, hb⟩, fun _ => hcs, fun _ => he, fun _ _ => hreq⟩

/-- A row that stores nothing to the bank, and records errors at most. -/
theorem RowFrame.of_bank_eq {m : MicroState} {s t : State} (hb : t.bank = s.bank)
    (hcs : t.clkSelStores = s.clkSelStores) (he : s.seq.KeepsError t.seq) (hreq : t.seq.request = s.seq.request) :
    RowFrame m s t :=
  ⟨.inl hb, fun _ => hcs, fun _ => he, fun _ _ => hreq⟩

/-! ## The rows -/

section
variable {m : MicroState} {s : State}

theorem storeStep_frame {reg : Reg} {v : Word} (m' : MicroState) (hmay : MayStore s.cfg.layout m v reg) :
    Answers (RowFrame m s) (storeStep reg v m' s) :=
  RowFrame.of_store hmay rfl (regWrite_stores s reg v) (.of_eq rfl) rfl

theorem armStep_frame {v : Word} (m' : MicroState) (hm : m ∈ [.stIen, .txIen, .spIen]) :
    Answers (RowFrame m s) (armStep v m' s) :=
  RowFrame.of_store (reg := .ien) hm rfl (regWrite_stores s .ien v) (.of_eq rfl) rfl

theorem quantumStep_frame (m' : MicroState) : Answers (RowFrame m s) (quantumStep m' s) :=
  .need fun _ _ => RowFrame.of_bank_eq rfl (delay_stores s pollQuantumUs) (.of_eq rfl) rfl

theorem sampleIpd_frame (m' : MicroState) : RowFrame m s (s.sampleIpd.goto m') :=
  .of_bank_eq rfl (sampleIpd_stores s) (.of_eq rfl) rfl

theorem orTimeout_frame (timedOut again : MicroState) :
    Answers (RowFrame m s) (s.sampleIpd.orTimeout timedOut again) := by
  refine .need fun n _ => ?_
  split
  · exact .need fun x hx => RowFrame.of_bank_eq rfl (sampleIpd_stores s) (.of_record hx rfl) rfl
  · exact sampleIpd_frame again

theorem checkStep_frame (f : Flag) (found timedOut again : MicroState) :
    Answers (RowFrame m s) (checkStep f found timedOut again s) :=
  .ifSeen (sampleIpd_frame found) (orTimeout_frame timedOut again)

/-- The clear of one flag is one of those its table row allows. -/
theorem mayStore_mask {y : Layout} (f : Flag) (hm : m ∈ clearedIn f) : MayStore y m (y.mask f) .ipd := by
  intro hwf g hg
  rw [hasFlag_mask hwf, decide_eq_true_eq] at hg
  exact hg ▸ hm

/-- The two wipes are in every row of the table. -/
theorem mayStore_wipe {y : Layout} {v : Word} (hm : m ∈ [.stClr, .spClr]) : MayStore y m v .ipd := by
  intro _ f _
  simp only [List.mem_cons, List.not_mem_nil, or_false] at hm
  rcases hm with rfl | rfl <;> cases f <;> decide

theorem conStep_frame {v : Word} (m' : MicroState) (hm : m ∈ [.stCon, .txCon, .spCon, .dis]) :
    Answers (RowFrame m s) (storeStep .con v m' s) := storeStep_frame (reg := .con) m' hm

theorem execTxChk_frame : Answers (RowFrame m s) (execTxChk s) :=
  .ifSeen (sampleIpd_frame _) (.ifSeen (sampleIpd_frame _) (orTimeout_frame _ _))

theorem execStAck_frame : Answers (RowFrame .stAck s) (execStAck s) :=
  .need fun _ _ => RowFrame.of_store (mayStore_mask .start (by decide)) rfl (regWrite_stores s _ _) (.of_eq rfl) rfl

theorem execTxFifo_frame : Answers (RowFrame .txFifo s) (execTxFifo s) := by
  refine .need fun i _ => .need fun cnt _ => .need fun a _ => .need fun p _ => .need fun l _ => .need fun r _ =>
    .need fun d _ => .need fun off _ => .need fun size _ => .txdataWrite fun w => ?_
  exact RowFrame.of_store (reg := .txdata i.toNat) rfl rfl (regWrite_stores s _ w) (.of_eq rfl) rfl

theorem execTxNak_frame : Answers (RowFrame .txNak s) (execTxNak s) := by
  have hrow : ∀ (x : ErrLatch) (m' : MicroState), s.seq.err = some x →
      RowFrame .txNak s (((s.regWrite .ipd (s.cfg.layout.mask .nakrcv)).record x .noAck).goto m') := fun x m' hx =>
    .of_store (mayStore_mask .nakrcv (by decide)) rfl (regWrite_stores s _ _) (.of_record hx rfl) rfl
  refine .need fun v _ => .need fun x hx => ?_
  dsimp only
  split
  · exact hrow x _ hx
  · exact .need fun n _ => hrow x _ hx

theorem execTxAck_frame : Answers (RowFrame .txAck s) (execTxAck s) := by
  have hmay := mayStore_mask (m := .txAck) (y := s.cfg.layout) .mbtf (by decide)
  refine .need fun x hx => ?_
  cases x with
  | error e => exact storeStep_frame .spClr hmay
  | noError =>
    refine .need fun rem _ => .need fun off _ => .need fun size _ => ?_
    unfold State.advance
    dsimp only
    split
    · exact RowFrame.of_store hmay rfl (regWrite_stores s _ _) (.of_eq rfl) rfl
    · exact RowFrame.of_store hmay rfl (regWrite_stores s _ _) (.of_eq rfl) rfl

theorem execRet_frame : Answers (RowFrame .ret s) (execRet s) := by
  have hrow : ∀ (x : OutMsg) (m' : MicroState), RowFrame .ret s (((s.emit x).dropRequest).goto m') := fun x m' =>
    ⟨.inl rfl, fun _ => emit_stores s x, fun h => absurd (by decide) h, fun _ h => absurd rfl h⟩
  refine .need fun c _ => ?_
  cases c with
  | cfgclk => trivial
  | wrtxn => exact .need fun x _ => hrow _ _
  | scan => exact .need fun x _ => .need fun a _ => hrow _ _

/-- Every row of the table but IDLE's keeps to its frame, and is never refused. -/
theorem exec_ofMicro_frame (hm : m ≠ .idle) : Answers (RowFrame m s) (exec (Instr.ofMicro m) s) := by
  cases m with
  | idle => exact absurd rfl hm
  | ckSel => exact .need fun hz _ => ⟨.inl rfl, fun h => absurd rfl h, fun _ => .of_eq rfl, fun _ _ => rfl⟩
  | ckDiv => exact .need fun hz _ => storeStep_frame (reg := .clkdiv) .done rfl
  | txnInit =>
    exact .need fun p _ => .need fun l _ =>
      ⟨.inl rfl, fun _ => rfl, fun h => absurd (by decide) h, fun _ _ => rfl⟩
  | stClr | spClr => exact storeStep_frame _ (mayStore_wipe (by decide))
  | stCon | txCon | spCon | dis => exact conStep_frame _ (by decide)
  | stIen | txIen | spIen => exact armStep_frame _ (by decide)
  | stChk | spChk => exact checkStep_frame _ _ _ _
  | stDly | txDly | spDly => exact quantumStep_frame _
  | stAck => exact execStAck_frame
  | spAck => exact storeStep_frame _ (mayStore_mask .stop (by decide))
  | txFifo => exact execTxFifo_frame
  | txCnt => exact .need fun size _ => storeStep_frame (reg := .mtxcnt) _ rfl
  | txChk => exact execTxChk_frame
  | txNak => exact execTxNak_frame
  | txAck => exact execTxAck_frame
  | ret => exact execRet_frame
  | scNext => exact .need fun a _ => ⟨.inl rfl, fun _ => rfl, fun _ => .of_eq rfl, fun h => absurd h (by decide)⟩
  | scDly => exact .need fun a _ => RowFrame.of_bank_eq rfl (delay_stores s scanDelayUs) (.of_eq rfl) rfl
  | done => exact ⟨.inl rfl, fun _ => rfl, fun h => absurd (by decide) h, fun h => absurd h (by decide)⟩
end

/-! ## What a step may write -/

/-- What the row of a busy block's micro-state answers in a step without a reset. -/
theorem step_frame {s t : State} (hb : ¬ s.isAt .idle) (hr : NoReset s) (h : step s = .next t) :
    ∃ m, s.isAt m ∧ RowFrame m (s.ctlMove s.envMove) t := by
  obtain ⟨m, hm, hat, hx⟩ := step_busy_eq_next hb hr h
  exact ⟨m, hat, (exec_ofMicro_frame hm).of_next hx⟩

/-- Settles O51: no row but IDLE's is ever refused. -/
theorem onlyTheCommandPortRefuses : Obligations.OnlyTheCommandPortRefuses := by
  unfold Obligations.OnlyTheCommandPortRefuses
  intro s r h
  by_contra hb
  by_cases hr : s.envMove.host = .reset
  · cases (step_of_reset s hr).symm.trans h
  rw [step_of_noReset s hr, envTurn_of_busy s hb hr] at h
  rcases runFetched_cases (s.ctlMove s.envMove) with ⟨m, hm, hrun⟩ | hrun
  · have hne : m ≠ .idle := by rintro rfl; exact hb hm
    exact (exec_ofMicro_frame hne).ne_refused r (hrun.symm.trans h)
  · cases hrun.symm.trans h

/-- Settles O56: the rows between TXN_INIT and RET only record, and `record` keeps the first error. -/
theorem firstErrorStays : Obligations.FirstErrorStays := by
  unfold Obligations.FirstErrorStays
  intro s t e hb hr h he hw
  obtain ⟨m, hm, hframe⟩ := step_frame hb hr h
  exact hframe.err (mt (within_iff_mem hm _).2 hw) e he

/-- Settles O57: no row of a transaction before RET writes the request latch. -/
theorem requestIsImmutable : Obligations.RequestIsImmutable := by
  unfold Obligations.RequestIsImmutable
  intro s t hw hret hr h
  have hb : ¬ s.isAt .idle := fun hi => absurd ((within_iff_mem hi _).1 hw) (by decide)
  obtain ⟨m, hm, hframe⟩ := step_frame hb hr h
  have hne : m ≠ .ret := by rintro rfl; exact hret hm
  have hreq := hframe.request ((within_iff_mem hm _).1 hw) hne
  simpa [SeqRegs.request] using hreq

/-! ## The table of the bank -/

/-- From `b` to `b'` a register changes, or a flag is cleared, only where the table gives it to `m`. -/
structure TableWrites (y : Layout) (m : MicroState) (b b' : Bank) : Prop where
  con : b'.con ≠ b.con → m ∈ [.stCon, .txCon, .spCon, .dis]
  ien : b'.ien ≠ b.ien → m ∈ [.stIen, .txIen, .spIen]
  clkdiv : b'.clkdiv ≠ b.clkdiv → m = .ckDiv
  mtxcnt : b'.mtxcnt ≠ b.mtxcnt → m = .txCnt
  txdata : b'.txdata ≠ b.txdata → m = .txFifo
  ipd : ∀ f : Flag, b.ipd.get f = true → b'.ipd.get f = false → y.wf = true → m ∈ clearedIn f

theorem TableWrites.refl (y : Layout) (m : MicroState) (b : Bank) : TableWrites y m b b :=
  ⟨(absurd rfl ·), (absurd rfl ·), (absurd rfl ·), (absurd rfl ·), (absurd rfl ·), fun f hf hf' => by simp [hf] at hf'⟩

theorem TableWrites.store {y : Layout} {m : MicroState} {reg : Reg} {v : Word} (h : MayStore y m v reg) (b : Bank) :
    TableWrites y m b (b.store y reg v) := by
  cases reg with
  | con => exact { TableWrites.refl y m b with con := fun _ => h }
  | ien => exact { TableWrites.refl y m b with ien := fun _ => h }
  | clkdiv => exact { TableWrites.refl y m b with clkdiv := fun _ => h }
  | mtxcnt => exact { TableWrites.refl y m b with mtxcnt := fun _ => h }
  | txdata i => exact { TableWrites.refl y m b with txdata := fun _ => h }
  | ipd =>
    refine { TableWrites.refl y m b with ipd := fun f hf hf' hwf => h hwf f ?_ }
    rw [show (b.store y .ipd v).ipd = b.ipd.clearBy y v from rfl, Flags.get_clearBy, hf] at hf'
    simpa using hf'

theorem RowFrame.tableWrites {m : MicroState} {s t : State} (h : RowFrame m s t) :
    TableWrites s.cfg.layout m s.bank t.bank := by
  rcases h.bank with hb | ⟨reg, v, hmay, hb⟩
  · rw [hb]
    exact .refl _ _ _
  · rw [hb]
    exact .store hmay _

/-- `Ctl` sets flags and clears none. -/
theorem get_ctlMove {s : State} {f : Flag} (m : EnvMove) (h : s.bank.ipd.get f = true) :
    (s.ctlMove m).bank.ipd.get f = true := by
  simp [Flags.get_setBy, h]

/-- A host move that is no reset changes the port or the bank, if anything. -/
theorem hostMove_of_noReset (s : State) {h : HostMove} (hr : h ≠ .reset) :
    ∃ p b, s.hostMove h = { s with port := p, bank := b } := by
  cases h with
  | quiet => exact ⟨s.port, s.bank, rfl⟩
  | present ws | poke reg v =>
    unfold State.hostMove
    dsimp only
    split
    · exact ⟨_, _, rfl⟩
    · exact ⟨s.port, s.bank, rfl⟩
  | reset => exact absurd rfl hr

/-- IDLE and the acceptance of a command record nothing. -/
theorem execIdle_trace {s t : State} (h : execIdle s = .next t) : t.trace = s.trace := by
  unfold execIdle at h
  split at h
  · cases h
    rfl
  split at h
  next c _ =>
    cases c with
    | cfgclk hz =>
      simp only [accept, acceptCfgclk] at h
      split at h <;> cases h
      rfl
    | wrtxn a r d =>
      simp only [accept, acceptWrtxn] at h
      split at h <;> cases h
      rfl
    | scan => cases h; rfl
    | reservedOp3 rest => cases h
  · cases h

/-- Without a reset, the clock-selection register is stored to at CK_SEL only. -/
theorem step_clkSelStores {s t : State} (hr : NoReset s) (h : step s = .next t) (hm : ¬ s.isAt .ckSel) :
    t.clkSelStores = s.clkSelStores := by
  obtain ⟨p, b, henv⟩ : ∃ p b, s.envTurn = { s.ctlMove s.envMove with port := p, bank := b } :=
    hostMove_of_noReset (s.ctlMove s.envMove) hr
  rw [step_of_noReset s hr, henv] at h
  let u : State := { s.ctlMove s.envMove with port := p, bank := b }
  rcases runFetched_cases u with ⟨m, hat, hrun⟩ | hrun
  · rw [hrun] at h
    have hne : m ≠ .ckSel := by rintro rfl; exact hm hat
    by_cases hi : m = .idle
    · subst hi
      exact congrArg (List.filterMap _) (execIdle_trace (s := u) h)
    · exact ((exec_ofMicro_frame hi).of_next h).clkSel hne
  · cases hrun.symm.trans h

/-- Settles O55: each row stores at most once, to a register the table gives it. -/
theorem bankRegistersAreWrittenOnlyWhereTheTableSays : Obligations.BankRegistersAreWrittenOnlyWhereTheTableSays := by
  unfold Obligations.BankRegistersAreWrittenOnlyWhereTheTableSays
  refine ⟨fun s t hb h => ?_, fun s t hr h => ⟨fun hne => ?_, fun hm => ?_⟩⟩
  · by_cases hr : s.envMove.host = .reset
    · have ht : t.bank = (s.ctlMove s.envMove).bank := by
        rw [step_of_reset s hr, envTurn_of_reset s hr] at h
        cases h
        rfl
      rw [ht]
      exact ⟨(absurd rfl ·), (absurd rfl ·), (absurd rfl ·), (absurd rfl ·), (absurd rfl ·),
        fun f hf hf' => by simp [Flags.get_setBy, hf] at hf'⟩
    · obtain ⟨m, hm, hframe⟩ := step_frame hb hr h
      obtain ⟨con, ien, clkdiv, mtxcnt, txdata, ipd⟩ := hframe.tableWrites
      have hw := within_iff_mem hm
      have hi := isAt_iff_eq hm
      exact ⟨fun h => (hw _).2 (con h), fun h => (hw _).2 (ien h), fun h => (hi _).2 (clkdiv h),
        fun h => (hi _).2 (mtxcnt h), fun h => (hi _).2 (txdata h),
        fun f hf hf' hwf => (hw _).2 (ipd f (get_ctlMove _ hf) hf' hwf)⟩
  · by_contra hm
    exact hne (step_clkSelStores hr h hm)
  · exact congrArg Config.clkSelHeld (step_clkSelStores hr h hm)

end Sys2Proof.Machine
end

section
/-! PROOFS. Nothing of the bank but `IPD` is read. -/

namespace Sys2Proof.Machine

/-! ## States and answers that differ in the bank alone -/

/-- The answers are next states that differ only in registers of the bank other than `IPD`, or the same stop. -/
def Alike : Answer → Answer → Prop
  | .next t, .next u => u = { t with bank := u.bank } ∧ u.bank.ipd = t.bank.ipd ∧ u.bank.ipdOther = t.bank.ipdOther
  | .fault r, .fault r' => r = r'
  | .refused r, .refused r' => r = r'
  | _, _ => False

namespace Alike

theorem need {α : Type} {reg : SeqReg} {x : Option α} {k k' : α → Answer} (h : ∀ a, Alike (k a) (k' a)) :
    Alike (need reg x k) (need reg x k') := by
  cases x with
  | none => rfl
  | some a => exact h a

theorem ifSeen {b : Bool} {t t' : State} {o o' : Answer} (ht : Alike (.next t) (.next t')) (ho : Alike o o') :
    Alike (ifSeen b t o) (ifSeen b t' o') := by
  rw [ifSeen_eq, ifSeen_eq]
  cases b with
  | true => exact ht
  | false => exact ho

theorem ite {c : Prop} [Decidable c] {o o' p p' : Answer} (ho : Alike o o') (hp : Alike p p') :
    Alike (if c then o else p) (if c then o' else p') := by
  split
  · exact ho
  · exact hp

theorem txdataWrite {s s' : State} {i : Word} {v : Option Word} {k k' : State → Answer} (hcfg : s'.cfg = s.cfg)
    (h : ∀ w, Alike (k (s.regWrite (.txdata i.toNat) w)) (k' (s'.regWrite (.txdata i.toNat) w))) :
    Alike (txdataWrite i v s k) (txdataWrite i v s' k') := by
  unfold Machine.txdataWrite
  rw [hcfg]
  refine .ite ?_ rfl
  cases v with
  | some w => exact h w
  | none => rfl

end Alike

/-- Another bank, with the same `IPD`. -/
structure SameIpd (b b' : Bank) : Prop where
  ipd : b'.ipd = b.ipd
  other : b'.ipdOther = b.ipdOther

/-- Banks with the same `IPD` have the same after a store. -/
theorem SameIpd.store {b b' : Bank} (h : SameIpd b b') (y : Layout) (reg : Reg) (v : Word) :
    SameIpd (b.store y reg v) (b'.store y reg v) := by
  obtain ⟨hipd, hother⟩ := h
  refine ⟨?_, by rw [store_ipdOther, store_ipdOther, hother]⟩
  cases reg with
  | ipd => exact congrArg (Flags.clearBy · y v) hipd
  | con | ien | clkdiv | mtxcnt | txdata i => exact hipd

/-- Two next states whose banks have the same `IPD`. -/
theorem SameIpd.alike {t : State} {b : Bank} (h : SameIpd t.bank b) : Alike (.next t) (.next { t with bank := b }) :=
  ⟨rfl, h.ipd, h.other⟩

section
variable {s : State} {b : Bank} (h : SameIpd s.bank b)
include h

theorem ipdWord_congr : ({ s with bank := b } : State).ipdWord = s.ipdWord := by
  simp only [State.ipdWord, h.ipd, h.other]

theorem sampleIpd_congr : ({ s with bank := b } : State).sampleIpd = { s.sampleIpd with bank := b } := by
  simp only [State.sampleIpd, ipdWord_congr h]

theorem orTimeout_alike (timedOut again : MicroState) :
    Alike (s.orTimeout timedOut again) (({ s with bank := b } : State).orTimeout timedOut again) :=
  .need fun _ => .ite (.need fun x => h.alike (t := (s.record x .timeout).goto timedOut)) (h.alike (t := s.goto again))

theorem storeStep_alike (reg : Reg) (v : Word) (m : MicroState) :
    Alike (storeStep reg v m s) (storeStep reg v m { s with bank := b }) :=
  (h.store s.cfg.layout reg v).alike (t := (s.regWrite reg v).goto m)

theorem armStep_alike (v : Word) (m : MicroState) : Alike (armStep v m s) (armStep v m { s with bank := b }) :=
  (h.store s.cfg.layout .ien v).alike (t := ((s.regWrite .ien v).setCountdown s.cfg.timeoutBudget).goto m)

theorem quantumStep_alike (m : MicroState) : Alike (quantumStep m s) (quantumStep m { s with bank := b }) :=
  .need fun n => h.alike (t := ((s.delay pollQuantumUs).setCountdown (n - 1#32)).goto m)

theorem checkStep_alike (f : Flag) (found timedOut again : MicroState) :
    Alike (checkStep f found timedOut again s) (checkStep f found timedOut again { s with bank := b }) := by
  unfold checkStep
  rw [ipdWord_congr h, sampleIpd_congr h]
  exact .ifSeen (h.alike (t := s.sampleIpd.goto found)) (orTimeout_alike (s := s.sampleIpd) h timedOut again)

theorem execTxChk_alike : Alike (execTxChk s) (execTxChk { s with bank := b }) := by
  unfold execTxChk
  rw [ipdWord_congr h, sampleIpd_congr h]
  exact .ifSeen (h.alike (t := s.sampleIpd.goto .txNak)) (.ifSeen (h.alike (t := s.sampleIpd.goto .txAck))
    (orTimeout_alike (s := s.sampleIpd) h .spClr .txDly))

theorem execTxFifo_alike : Alike (execTxFifo s) (execTxFifo { s with bank := b }) := by
  refine .need fun i => .need fun cnt => .need fun a => .need fun p => .need fun l => .need fun r => .need fun d =>
    .need fun off => .need fun size => .txdataWrite rfl fun w => ?_
  exact (h.store s.cfg.layout (.txdata i.toNat) w).alike
    (t := { (s.regWrite (.txdata i.toNat) w).goto (if i + 1#32 = cnt then .txCon else .txFifo) with
      seq := { s.seq with wordIdx := some (i + 1#32) } })

theorem execTxNak_alike : Alike (execTxNak s) (execTxNak { s with bank := b }) := by
  have hstore := h.store s.cfg.layout .ipd (s.cfg.layout.mask .nakrcv)
  have hrow : ∀ (x : ErrLatch) (m : MicroState), Alike
      (.next (((s.regWrite .ipd (s.cfg.layout.mask .nakrcv)).record x .noAck).goto m))
      (.next (((({ s with bank := b } : State).regWrite .ipd (s.cfg.layout.mask .nakrcv)).record x .noAck).goto m)) :=
    fun x m => hstore.alike (t := ((s.regWrite .ipd (s.cfg.layout.mask .nakrcv)).record x .noAck).goto m)
  exact .need fun v => .need fun x => .ite (hrow x .txAck) (.need fun n => hrow x _)

theorem advance_alike (rem off : Word) :
    Alike (.next (s.advance rem off)) (.next (({ s with bank := b } : State).advance rem off)) := by
  let t : State := { s with seq := { s.seq with bytesRem := some rem, streamOff := some off } }
  by_cases hrem : rem = 0#32
  · simp only [State.advance, if_pos hrem]
    exact h.alike (t := t.goto .spClr)
  · simp only [State.advance, if_neg hrem]
    exact h.alike (t := (t.chunkSetup rem).goto .txFifo)

theorem execTxAck_alike : Alike (execTxAck s) (execTxAck { s with bank := b }) := by
  refine .need fun x => ?_
  cases x with
  | error e => exact storeStep_alike h .ipd _ .spClr
  | noError =>
    exact .need fun rem => .need fun off => .need fun size =>
      advance_alike (s := s.regWrite .ipd (s.cfg.layout.mask .mbtf)) (h.store s.cfg.layout .ipd _) _ _

theorem execRet_alike : Alike (execRet s) (execRet { s with bank := b }) := by
  refine .need fun c => ?_
  cases c with
  | cfgclk => rfl
  | wrtxn => exact .need fun x => h.alike (t := ((s.emit (.result x.result)).dropRequest).goto .done)
  | scan => exact .need fun x => .need fun a => h.alike (t := ((s.emit (.report a x.presence)).dropRequest).goto .scDly)

theorem accept_alike (c : Command) : Alike (accept c s) (accept c { s with bank := b }) := by
  cases c with
  | cfgclk hz => exact .ite rfl ⟨rfl, h.ipd, h.other⟩
  | wrtxn a r d => exact .ite ⟨rfl, h.ipd, h.other⟩ rfl
  | scan => exact ⟨rfl, h.ipd, h.other⟩
  | reservedOp3 rest => rfl

theorem execIdle_alike : Alike (execIdle s) (execIdle { s with bank := b }) := by
  unfold execIdle
  dsimp only
  split
  next => exact h.alike (t := s.goto .idle)
  split
  next => exact accept_alike h _
  next => rfl

theorem exec_ofMicro_alike (m : MicroState) :
    Alike (exec (Instr.ofMicro m) s) (exec (Instr.ofMicro m) { s with bank := b }) := by
  cases m with
  | idle => exact execIdle_alike h
  | ckSel => exact .need fun hz => ⟨rfl, h.ipd, h.other⟩
  | ckDiv => exact .need fun hz => storeStep_alike h _ _ _
  | txnInit => exact .need fun p => .need fun l => ⟨rfl, h.ipd, h.other⟩
  | stClr | stCon | txCon | spClr | spCon | spAck | dis => exact storeStep_alike h _ _ _
  | stIen | txIen | spIen => exact armStep_alike h _ _
  | stChk | spChk => exact checkStep_alike h _ _ _ _
  | stDly | txDly | spDly => exact quantumStep_alike h _
  | stAck =>
    exact .need fun rem => (h.store s.cfg.layout .ipd (s.cfg.layout.mask .start)).alike
      (t := ((s.regWrite .ipd (s.cfg.layout.mask .start)).chunkSetup rem).goto .txFifo)
  | txFifo => exact execTxFifo_alike h
  | txCnt => exact .need fun size => storeStep_alike h _ _ _
  | txChk => exact execTxChk_alike h
  | txNak => exact execTxNak_alike h
  | txAck => exact execTxAck_alike h
  | ret => exact execRet_alike h
  | scNext => exact .need fun a => ⟨rfl, h.ipd, h.other⟩
  | scDly => exact .need fun a => ⟨rfl, h.ipd, h.other⟩
  | done => exact ⟨rfl, h.ipd, h.other⟩

theorem runFetched_alike : Alike (runFetched s) (runFetched { s with bank := b }) := by
  by_cases hm : ∃ m, s.isAt m
  · obtain ⟨m, hm⟩ := hm
    rw [runFetched_row hm, runFetched_row (s := { s with bank := b }) hm]
    exact exec_ofMicro_alike h m
  · rw [runFetched_unused (not_exists.1 hm), runFetched_unused (s := { s with bank := b }) (not_exists.1 hm)]
    rfl

theorem hostMove_alike (m : HostMove) : ∃ b', SameIpd (s.hostMove m).bank b' ∧
    ({ s with bank := b } : State).hostMove m = { s.hostMove m with bank := b' } := by
  cases m with
  | quiet | reset => exact ⟨b, h, rfl⟩
  | present ws =>
    by_cases hi : s.isAt .idle
    · simp only [State.hostMove, if_pos hi]
      exact ⟨b, h, rfl⟩
    · simp only [State.hostMove, if_neg hi]
      exact ⟨b, h, rfl⟩
  | poke reg v =>
    by_cases hi : s.isAt .idle
    · simp only [State.hostMove, if_pos hi]
      exact ⟨_, h.store s.cfg.layout reg v, rfl⟩
    · simp only [State.hostMove, if_neg hi]
      exact ⟨b, h, rfl⟩

/-- The environment's turn is the same turn over either bank. -/
theorem envTurn_alike : ∃ b', SameIpd s.envTurn.bank b' ∧
    ({ s with bank := b } : State).envTurn = { s.envTurn with bank := b' } :=
  hostMove_alike (s := s.ctlMove s.envMove)
    (b := { b with ipd := b.ipd.setBy s.envMove.set, ipdOther := s.envMove.other })
    ⟨congrArg (Flags.setBy · s.envMove.set) h.ipd, rfl⟩ s.envMove.host

theorem step_alike : Alike (step s) (step { s with bank := b }) := by
  obtain ⟨b', h', henv⟩ := envTurn_alike h
  unfold step afterEnv
  rw [henv]
  exact .ite h'.alike (runFetched_alike h')

end

/-- Settles O59, row by row of the transition table. -/
theorem onlyIpdOfTheBankIsRead : Obligations.OnlyIpdOfTheBankIsRead := by
  unfold Obligations.OnlyIpdOfTheBankIsRead
  intro s b hipd hother
  exact step_alike ⟨hipd, hother⟩

end Sys2Proof.Machine
end

section
/-! PROOFS. Launch, acceptance, the environment's turn, the store to `IPD`, and RET. -/

namespace Sys2Proof.Machine

/-- Settles O7: without a reset, a busy block's turn is `Ctl`'s half of it. -/
theorem environmentOnlySetsFlagsDuringACommand : Obligations.EnvironmentOnlySetsFlagsDuringACommand := by
  unfold Obligations.EnvironmentOnlySetsFlagsDuringACommand
  intro s hb hr
  rw [envTurn_of_busy s hb hr]
  exact ⟨rfl, fun f => Flags.get_setBy s.bank.ipd s.envMove.set f⟩

/-- Settles O25: a flag test is the bit at the flag's position. -/
theorem ipdStoreClearsExactlyTheOnes : Obligations.IpdStoreClearsExactlyTheOnes := by
  unfold Obligations.IpdStoreClearsExactlyTheOnes
  refine fun b y v => ⟨fun f => ?_, rfl⟩
  rw [← hasFlag_eq_getLsbD]
  exact Flags.get_clearBy b.ipd y v f

/-- Settles O9: the launch state is written so, and the suggested parameters are allowed. -/
theorem launchStateHoldsNoValues : Obligations.LaunchStateHoldsNoValues := by
  unfold Obligations.LaunchStateHoldsNoValues
  exact ⟨fun c b => ⟨rfl, rfl, rfl, rfl, rfl⟩, _, _, rfl, by decide, by decide⟩

/-- Settles O10: an idle block accepts a well-formed command. -/
theorem acceptanceLatchesTheOperands : Obligations.AcceptanceLatchesTheOperands := by
  unfold Obligations.AcceptanceLatchesTheOperands
  refine ⟨fun s hi hz => ?_, fun s a r d hi hlen => ?_, fun s hi => ?_⟩
  · exact (exec_ofCommand hi (.cfgclk _)).trans (if_neg (by simp [hz]))
  · exact (exec_ofCommand hi (.wrtxn a r d)).trans (if_pos (decide_eq_true hlen))
  · exact exec_ofCommand hi .scan

/-- Settles O12: the port is ready only at IDLE, and there alone the host's moves take effect. -/
theorem commandWhileBusyIsNotTaken : Obligations.CommandWhileBusyIsNotTaken := by
  unfold Obligations.CommandWhileBusyIsNotTaken
  refine ⟨fun s hz a r d hb => ⟨if_neg hb, if_neg hb, if_neg hb⟩, fun s ws hb hp => ?_, fun s ws hi hp => ?_,
    fun s reg v hi hp => ?_⟩
  · rw [envTurn_of_busy s hb (by simp [hp]), ctlMove_port]
  · rw [State.envTurn, hp]
    exact if_pos hi
  · rw [State.envTurn, hp]
    exact if_pos hi

theorem need_of_eq {α : Type} {reg : SeqReg} {x : Option α} {a : α} (k : α → Answer) (h : x = some a) :
    need reg x k = k a := by
  rw [h, need_some]

theorem presence_eq (x : ErrLatch) : x.presence = if x = .noError then .present else .absent := by
  cases x <;> rfl

/-- Settles O17: RET's row, by the command and the latch. -/
theorem retReportsTheFirstError : Obligations.RetReportsTheFirstError := by
  unfold Obligations.RetReportsTheFirstError
  refine fun s x hx => ⟨fun hcmd => ?_, fun a hcmd ha => ?_⟩
  · refine (need_of_eq _ hcmd).trans ((need_of_eq _ hx).trans ?_)
    rcases x with _ | _ | _ <;> rfl
  · rw [← presence_eq x]
    exact (need_of_eq _ hcmd).trans ((need_of_eq _ hx).trans (need_of_eq _ ha))

end Sys2Proof.Machine
end

section
/-! PROOFS. The `IPD` read. -/

namespace Sys2Proof.Machine

/-- Settles O24: the read is the word of the flags over the bits `Ctl` drives, whose positions are distinct. -/
theorem ipdReadShowsTheFlags : Obligations.IpdReadShowsTheFlags := by
  unfold Obligations.IpdReadShowsTheFlags
  exact fun s hwf => ⟨Flags.hasFlag_word hwf s.bank.ipd s.bank.ipdOther,
    fun _ hn hpos => Flags.word_other s.bank.ipd s.cfg.layout s.bank.ipdOther hn hpos⟩

end Sys2Proof.Machine
end

section
/-! PROOFS. Codes and words: the code tables, the header's fields, and the decoder on what the encoder writes. -/

namespace Sys2Proof

open Machine

/-! ## The header (spec/30_encoding.md R72) -/

@[simp] theorem opOf_headerWord (op : BitVec 2) (a : BitVec 7) : opOf (headerWord op a) = op :=
  BitVec.extractLsb'_append_eq_right

@[simp] theorem devaddrOf_headerWord (op : BitVec 2) (a : BitVec 7) : devaddrOf (headerWord op a) = a :=
  (BitVec.extractLsb'_append_eq_of_le (by decide)).trans BitVec.extractLsb'_append_eq_right

@[simp] theorem reservedOf_headerWord (op : BitVec 2) (a : BitVec 7) : reservedOf (headerWord op a) = 0#23 :=
  (BitVec.extractLsb'_append_eq_of_le (by decide)).trans BitVec.extractLsb'_append_eq_left

theorem decodeCommand_of_reservedOp {h : Word} (rest : List Word) (h3 : opOf h = 3#2) :
    decodeCommand (h :: rest) = .ok (.reservedOp3 (h.extractLsb' 2 30)) := if_pos h3

theorem decodeCommand_of_reservedBits {h : Word} (rest : List Word) (h3 : opOf h ≠ 3#2) (hr : reservedOf h ≠ 0#23) :
    decodeCommand (h :: rest) = .error .reservedBits := (if_neg h3).trans (if_pos hr)

/-- A header with no fault of its own leaves the descriptor to its `OP`. -/
theorem decodeCommand_of_header {h : Word} (rest : List Word) (h3 : opOf h ≠ 3#2) (hr : reservedOf h = 0#23) :
    decodeCommand (h :: rest) = decodeOp (opOf h) (devaddrOf h) rest := (if_neg h3).trans (if_neg (not_not.2 hr))

theorem decodeCommand_headerWord {op : BitVec 2} (h3 : op ≠ 3#2) (a : BitVec 7) (rest : List Word) :
    decodeCommand (headerWord op a :: rest) = decodeOp op a rest := by
  rw [decodeCommand_of_header rest (by rwa [opOf_headerWord]) (reservedOf_headerWord op a), opOf_headerWord,
    devaddrOf_headerWord]

theorem decodeOp_wrtxn (a : BitVec 7) (rest : List Word) : decodeOp 1#2 a rest = decodeWrtxn a rest := if_pos rfl

theorem decodeOp_of_strayAddress {op : BitVec 2} {a : BitVec 7} (rest : List Word) (hop : op ≠ 1#2) (ha : a ≠ 0#7) :
    decodeOp op a rest = .error .strayAddress := (if_neg hop).trans (if_pos ha)

/-! ## The buffers (spec/30_encoding.md R74, R77) -/

/-- The lanes of a packed buffer are its bytes and, past its end, up to three more. -/
theorem take_bytesOfWords_wordsOfBytes (bs : List Byte) : (bytesOfWords (wordsOfBytes bs)).take bs.length = bs := by
  induction bs using wordsOfBytes.induct with
  | case1 => rfl
  | case2 b0 => simp [wordsOfBytes, bytesOfWords]
  | case3 b0 b1 => simp [wordsOfBytes, bytesOfWords]
  | case4 b0 b1 b2 => simp [wordsOfBytes, bytesOfWords]
  | case5 b0 b1 b2 b3 bs ih => simpa [wordsOfBytes, bytesOfWords] using ih

/-- Format W with lengths in range and all its words. -/
theorem decodeWrtxn_of_complete (a : BitVec 7) {p l : Word} {buf : List Word} (hlen : 1 + p.toNat + l.toNat < 2 ^ 32)
    (hbuf : wordsFor p.toNat + wordsFor l.toNat ≤ buf.length) :
    decodeWrtxn a (p :: l :: buf) = .ok (.wrtxn a ((bytesOfWords (buf.take (wordsFor p.toNat))).take p.toNat)
      ((bytesOfWords ((buf.drop (wordsFor p.toNat)).take (wordsFor l.toNat))).take l.toNat)) :=
  (if_neg (not_le.2 hlen)).trans (if_neg (not_lt.2 hbuf))

/-- Format W read back: the two buffers are cut where their lengths say. -/
theorem decodeWrtxn_wordsOfBytes (a : BitVec 7) {r d : List Byte} (h : 1 + r.length + d.length < 2 ^ 32) :
    decodeWrtxn a (BitVec.ofNat 32 r.length :: BitVec.ofNat 32 d.length :: (wordsOfBytes r ++ wordsOfBytes d)) =
      .ok (.wrtxn a r d) := by
  have hp : (BitVec.ofNat 32 r.length).toNat = r.length := Nat.mod_eq_of_lt (by omega)
  have hl : (BitVec.ofNat 32 d.length).toNat = d.length := Nat.mod_eq_of_lt (by omega)
  have hr : (wordsOfBytes r).length = wordsFor r.length := wordsOfBytes_length r
  have hd : (wordsOfBytes d).length = wordsFor d.length := wordsOfBytes_length d
  rw [decodeWrtxn_of_complete a (by rwa [hp, hl]) (by rw [hp, hl, List.length_append, hr, hd]), hp, hl,
    List.take_left' hr, List.drop_left' hr, List.take_of_length_le hd.le, take_bytesOfWords_wordsOfBytes,
    take_bytesOfWords_wordsOfBytes]

/-! ## The three levels (spec/30_encoding.md R89) -/

theorem decode_descriptor_of_ok {ws : List Word} {c : Command} (h : decodeCommand ws = .ok c) :
    decode (.descriptor ws) = .ok (Instr.ofCommand c) := congrArg (Except.map Instr.ofCommand) h

/-- Settles O1: the commands by their formats, the other two levels by the code tables. -/
theorem decodeOfEncodeIsTheInstruction : Obligations.DecodeOfEncodeIsTheInstruction := by
  unfold Obligations.DecodeOfEncodeIsTheInstruction
  intro i hwf
  cases i with
  | cfgclk hz => exact decode_descriptor_of_ok (decodeCommand_headerWord (op := 0#2) (by decide) 0#7 [hz])
  | wrtxn a r d =>
    have hlen : 1 + r.length + d.length < 2 ^ 32 := of_decide_eq_true hwf
    exact decode_descriptor_of_ok
      ((decodeCommand_headerWord (by decide) a _).trans ((decodeOp_wrtxn a _).trans (decodeWrtxn_wordsOfBytes a hlen)))
  | scan => exact decode_descriptor_of_ok (decodeCommand_headerWord (op := 2#2) (by decide) 0#7 [])
  | reservedOp3 rest =>
    have hop : opOf (rest ++ 3#2) = 3#2 := BitVec.extractLsb'_append_eq_right
    have hrest : (rest ++ 3#2).extractLsb' 2 30 = rest := BitVec.extractLsb'_append_eq_left
    rw [encode, decode_descriptor_of_ok (decodeCommand_of_reservedOp [] hop), hrest, Instr.ofCommand]
  | sendStart | pollStart | txChunk | txWait | sendStop | pollStop | disable => rfl
  | idle | ckSel | ckDiv | txnInit | stClr | stCon | stIen | stChk | stAck | stDly | txFifo | txCon | txCnt | txIen
  | txChk | txNak | txAck | txDly | spClr | spCon | spIen | spChk | spAck | spDly | dis | ret | scNext | scDly
  | done => rfl

/-- Settles O2: 29 codes, each the inverse of the other table. -/
theorem microStateCodesAreTheTable : Obligations.MicroStateCodesAreTheTable := by
  unfold Obligations.MicroStateCodesAreTheTable
  exact ⟨by decide, MicroState.ofCode_code, fun _ _ => code_of_ofCode, by decide⟩

/-- Settles O3, by running the decoder on the words. -/
theorem wordsOfTheSpecDecode : Obligations.WordsOfTheSpecDecode := by
  unfold Obligations.WordsOfTheSpecDecode
  exact ⟨rfl, rfl, rfl, rfl, rfl, rfl, rfl, rfl⟩

/-- Settles O22, by computing the values. -/
theorem defaultLayoutValues : Obligations.DefaultLayoutValues := by
  unfold Obligations.DefaultLayoutValues
  decide

/-! ## Result codes (spec/30_encoding.md R88) -/

/-- Joined words as a number: the high part shifted by the low part's width. -/
theorem toNat_append_eq_add {m n : Nat} (x : BitVec m) (y : BitVec n) :
    (x ++ y).toNat = x.toNat * 2 ^ n + y.toNat := by
  rw [BitVec.toNat_append, ← Nat.shiftLeft_add_eq_or_of_lt y.isLt, Nat.shiftLeft_eq]

/-- Settles O60: the tables value by value, the words by the place of each field. -/
theorem resultCodesAreTheTable : Obligations.ResultCodesAreTheTable := by
  unfold Obligations.ResultCodesAreTheTable
  refine ⟨by decide, by decide, fun x => ?_, by decide, by decide, fun r => ?_, fun a p => ?_⟩
  · rcases x with _ | _ | _ <;> rfl
  · rw [OutMsg.word, toNat_append_eq_add, BitVec.toNat_zero, Nat.zero_mul, Nat.zero_add]
  · simp only [OutMsg.word, toNat_append_eq_add, BitVec.toNat_ofNat]
    omega

end Sys2Proof
end

section
/-! PROOFS. What the command port of an idle block does with a descriptor. -/

namespace Sys2Proof.Machine

/-! ## The port's answer -/

/-- A decoded descriptor is accepted, or refused for what the decoder names. -/
def portAnswer (s : State) : Except DecodeError Command → Answer
  | .ok c => accept c s
  | .error e => .refused (.malformed e)

theorem execIdle_of_port {s : State} {ws : List Word} (hp : s.port = some ws) :
    execIdle s = portAnswer s (decodeCommand ws) := by
  simp only [execIdle, hp]
  cases decodeCommand ws <;> rfl

theorem runFetched_of_port {s : State} {ws : List Word} (hi : s.isAt .idle) (hp : s.port = some ws) :
    runFetched s = portAnswer s (decodeCommand ws) := (runFetched_idle hi).trans (execIdle_of_port hp)

/-- Settles O5: the decoder looks at `OP` first. -/
theorem reservedOpIsRefused : Obligations.ReservedOpIsRefused := by
  unfold Obligations.ReservedOpIsRefused
  refine ⟨fun _ _ => rfl, fun s h ws hi hp h3 => ?_⟩
  rw [runFetched_of_port hi hp, decodeCommand_of_reservedOp ws h3]
  rfl

/-- Settles O13: IDLE's row is what an idle block fetches. -/
theorem idleTakesTheCommandAtThePort : Obligations.IdleTakesTheCommandAtThePort := by
  unfold Obligations.IdleTakesTheCommandAtThePort
  refine ⟨fun s hi hp => ?_, fun s ws i hi hp hd => ?_⟩
  · have hgoto : s.goto .idle = s := by rw [State.goto, ← hi]
    rw [exec, execIdle, hp, hgoto]
  · have hfetch : s.fetch = .descriptor ws := by simp [State.fetch, hp, hi]
    calc exec .idle s = runFetched s := (runFetched_idle hi).symm
      _ = exec i s := by rw [runFetched, hfetch, hd]

/-! ## The refused descriptors (spec/30_encoding.md R93) -/

/-- The answer is a refusal if `P` holds, and a next state if not. -/
def RefusedIff (P : Prop) : Answer → Prop
  | .next _ => ¬ P
  | .refused _ => P
  | .fault _ => False

theorem RefusedIff.iff {P : Prop} {o : Answer} (h : RefusedIff P o) :
    ((∃ r, o = .refused r) ↔ P) ∧ ((∃ t, o = .next t) ↔ ¬ P) := by
  cases o with
  | next t =>
    have hP : ¬ P := h
    simp [hP]
  | refused r =>
    have hP : P := h
    simp [hP]
  | fault r => exact h.elim

/-- CFGCLK by its frequency (spec/40_clock.md R106). -/
theorem acceptCfgclk_refusedIff (hz : Word) (s : State) :
    RefusedIff (hz = 0#32 ∨ hz ≠ s.cfg.targetSclHz) (acceptCfgclk hz s) := by
  unfold acceptCfgclk
  split <;> assumption

/-- A request that was read off a descriptor is no longer than its length words say. -/
theorem acceptWrtxn_take_accepted (a : BitVec 7) {p l : Nat} (hlen : 1 + p + l < 2 ^ 32) (r d : List Byte) (s : State) :
    ∃ t, acceptWrtxn a (r.take p) (d.take l) s = .next t := by
  have hr : (r.take p).length ≤ p := List.length_take_le p r
  have hd : (d.take l).length ≤ l := List.length_take_le l d
  have hwf : lengthsWellFormed (r.take p) (d.take l) = true := decide_eq_true (by omega)
  exact ⟨_, if_pos hwf⟩

theorem wordsAfterHeader_wrtxn (p l : Word) (buf : List Word) :
    wordsAfterHeader 1#2 (p :: l :: buf) = 2 + wordsFor p.toNat + wordsFor l.toNat := rfl

/-- Format W after its header: its two lengths, their sum, then the buffer words. -/
theorem decodeWrtxn_refusedIff (s : State) (a : BitVec 7) (rest : List Word) :
    RefusedIff (rest.length < wordsAfterHeader 1#2 rest ∨
        ∃ p l buf, rest = p :: l :: buf ∧ 2 ^ 32 ≤ 1 + p.toNat + l.toNat)
      (portAnswer s (decodeWrtxn a rest)) := by
  match rest with
  | [] | [_] => exact .inl (by simp [wordsAfterHeader])
  | p :: l :: buf =>
    have hwords : (p :: l :: buf).length < wordsAfterHeader 1#2 (p :: l :: buf) ↔
        buf.length < wordsFor p.toNat + wordsFor l.toNat := by
      rw [wordsAfterHeader_wrtxn, List.length_cons, List.length_cons]
      omega
    by_cases hlong : 2 ^ 32 ≤ 1 + p.toNat + l.toNat
    · rw [decodeWrtxn, if_pos hlong]
      exact .inr ⟨p, l, buf, rfl, hlong⟩
    by_cases hshort : buf.length < wordsFor p.toNat + wordsFor l.toNat
    · rw [decodeWrtxn, if_neg hlong, if_pos hshort]
      exact .inl (hwords.2 hshort)
    · obtain ⟨t, ht⟩ := acceptWrtxn_take_accepted a (not_le.1 hlong) (bytesOfWords (buf.take (wordsFor p.toNat)))
        (bytesOfWords ((buf.drop (wordsFor p.toNat)).take (wordsFor l.toNat))) s
      rw [decodeWrtxn_of_complete a (not_le.1 hlong) (not_lt.1 hshort), portAnswer, accept, ht]
      rintro (h | ⟨_, _, _, ⟨⟩, h⟩)
      · exact hshort (hwords.1 h)
      · exact hlong h

theorem opOf_cases {h : Word} (h3 : opOf h ≠ 3#2) : opOf h = 0#2 ∨ opOf h = 1#2 ∨ opOf h = 2#2 := by
  generalize opOf h = op at h3 ⊢
  revert op
  decide

section
variable (c : Config) {h : Word} (rest : List Word) (hr : reservedOf h = 0#23)
include hr

theorem malformed_iff_of_cfgclk (hop : opOf h = 0#2) (ha : devaddrOf h = 0#7) : Malformed c h rest ↔
    rest = [] ∨ ∃ hz more, rest = hz :: more ∧ (hz = 0#32 ∨ hz ≠ c.targetSclHz) := by
  simp [Malformed, hr, hop, ha, wordsAfterHeader]

theorem malformed_iff_of_wrtxn (hop : opOf h = 1#2) : Malformed c h rest ↔
    rest.length < wordsAfterHeader 1#2 rest ∨ ∃ p l buf, rest = p :: l :: buf ∧ 2 ^ 32 ≤ 1 + p.toNat + l.toNat := by
  simp [Malformed, hr, hop, or_comm]

theorem not_malformed_of_scan (hop : opOf h = 2#2) (ha : devaddrOf h = 0#7) : ¬ Malformed c h rest := by
  simp [Malformed, hr, hop, ha, wordsAfterHeader]
end

/-- The three formats: their address, their words, and what the accepted command is refused for. -/
theorem decodeOp_refusedIff (s : State) {h : Word} (rest : List Word) (h3 : opOf h ≠ 3#2) (hr : reservedOf h = 0#23) :
    RefusedIff (Malformed s.cfg h rest) (portAnswer s (decodeOp (opOf h) (devaddrOf h) rest)) := by
  have hstray (hop : opOf h = 0#2 ∨ opOf h = 2#2) (ha : devaddrOf h ≠ 0#7) :
      RefusedIff (Malformed s.cfg h rest) (portAnswer s (decodeOp (opOf h) (devaddrOf h) rest)) := by
    have hne : opOf h ≠ 1#2 := by rcases hop with hop | hop <;> simp [hop]
    rw [decodeOp_of_strayAddress rest hne ha]
    exact .inr (.inl ⟨ha, hop⟩)
  rcases opOf_cases h3 with hop | hop | hop
  · by_cases ha : devaddrOf h = 0#7
    · rw [malformed_iff_of_cfgclk s.cfg rest hr hop ha, hop, ha]
      match rest with
      | [] => exact .inl rfl
      | hz :: more => simpa [decodeOp, portAnswer, accept] using acceptCfgclk_refusedIff hz s
    · exact hstray (.inl hop) ha
  · rw [malformed_iff_of_wrtxn s.cfg rest hr hop, hop, decodeOp_wrtxn]
    exact decodeWrtxn_refusedIff s (devaddrOf h) rest
  · by_cases ha : devaddrOf h = 0#7
    · rw [hop, ha]
      exact not_malformed_of_scan s.cfg rest hr hop ha
    · exact hstray (.inr hop) ha

/-- A descriptor with a header: `OP`, then the reserved bits, then its format. -/
theorem portAnswer_refusedIff (s : State) (h : Word) (rest : List Word) :
    RefusedIff (opOf h = 3#2 ∨ Malformed s.cfg h rest) (portAnswer s (decodeCommand (h :: rest))) := by
  by_cases h3 : opOf h = 3#2
  · rw [decodeCommand_of_reservedOp rest h3]
    exact .inl h3
  by_cases hr : reservedOf h = 0#23
  · rw [decodeCommand_of_header rest h3 hr, or_iff_right h3]
    exact decodeOp_refusedIff s rest h3 hr
  · rw [decodeCommand_of_reservedBits rest h3 hr]
    exact .inr (.inl hr)

/-- Settles O4: the port's answer, case by case of the decoder. -/
theorem portRefusesExactlyTheMalformed : Obligations.PortRefusesExactlyTheMalformed := by
  unfold Obligations.PortRefusesExactlyTheMalformed
  refine fun s h rest hi => ⟨fun hp => ?_, fun hp => runFetched_of_port hi hp⟩
  rw [runFetched_of_port hi hp]
  exact (portAnswer_refusedIff s h rest).iff

end Sys2Proof.Machine
end

section
/-! PROOFS. The stores of the start and stop controllers and of the trigger. -/

namespace Sys2Proof.Machine

/-- The store of `IPD_ALL` clears the four flags. -/
theorem storeStep_ipdAll {s : State} (hwf : s.cfg.layout.wf = true) (m : MicroState) :
    storeStep .ipd s.cfg.layout.ipdAll m s = .next { s with
      upc := m.code,
      bank := { s.bank with ipd := { start := false, stop := false, mbtf := false, nakrcv := false } },
      trace := s.trace ++ [.w .ipd s.cfg.layout.ipdAll] } := by
  rw [storeStep_eq, Bank.store, Flags.clearBy_ipdAll hwf]

/-- Settles O19: three stores, the last of which loads the budget. -/
theorem startControllerStores : Obligations.StartControllerStores := by
  unfold Obligations.StartControllerStores
  exact fun s hwf => ⟨storeStep_ipdAll hwf .stCon, storeStep_eq .con s.cfg.layout.conStartValue .stIen s,
    armStep_eq s.cfg.layout.ienStartValue .stChk s⟩

/-- Settles O20: as the start controller, with the stop condition's fields. -/
theorem stopControllerStores : Obligations.StopControllerStores := by
  unfold Obligations.StopControllerStores
  exact fun s hwf => ⟨storeStep_ipdAll hwf .spCon, storeStep_eq .con s.cfg.layout.conStopValue .spIen s,
    armStep_eq s.cfg.layout.ienStopValue .spChk s⟩

/-- Settles O29: TX_CNT stores the chunk's size, which it reads first. -/
theorem triggerStores : Obligations.TriggerStores := by
  unfold Obligations.TriggerStores
  refine fun s => ⟨storeStep_eq .con s.cfg.layout.conTxValue .txCnt s, fun size hsize => ?_,
    armStep_eq s.cfg.layout.ienTxValue .txChk s⟩
  exact (need_of_eq _ hsize).trans (storeStep_eq .mtxcnt size .txIen s)

end Sys2Proof.Machine
end

section
/-! PROOFS. The default divisor (spec/40_clock.md R104), the clock configurator and the refusal of CFGCLK. -/

namespace Sys2Proof

/-- The ceiling of R9 against a bound: the Galois connection of Mathlib's `⌈/⌉`. -/
theorem ceilDiv_le_iff {a b t : Nat} (hb : 0 < b) : ceilDiv a b ≤ t ↔ a ≤ b * t :=
  ceilDiv_le_iff_le_mul (b := a) hb

/-- The totals at or above the default's are those of at least 2 whose SCL does not exceed the target. -/
theorem clkDivTotal_le_iff {ref hz t : Nat} (hhz : 0 < hz) :
    clkDivTotal ref hz ≤ t ↔ 2 ≤ t ∧ ref ≤ 8 * t * hz := by
  rw [clkDivTotal, Nat.max_le, ceilDiv_le_iff (Nat.mul_pos (by decide) hhz), Nat.mul_right_comm]

theorem two_le_clkDivTotal (ref hz : Nat) : 2 ≤ clkDivTotal ref hz := Nat.le_max_left ..

/-- The two phases of the default pair add up to its total divisor. -/
theorem clkDivDefault_total (ref hz : Nat) :
    (clkDivDefault ref hz).1 + 1 + (clkDivDefault ref hz).2 + 1 = clkDivTotal ref hz := by
  have h2 := two_le_clkDivTotal ref hz
  simp only [clkDivDefault]
  omega

theorem clkDivDefault_oddUnitHigh (ref hz : Nat) : (clkDivDefault ref hz).2 = (clkDivDefault ref hz).1 ∨
    (clkDivDefault ref hz).2 = (clkDivDefault ref hz).1 + 1 := by
  simp only [clkDivDefault]
  omega

/-- Settles O15: the default's total is the least element of the set that `clkDivTotal_le_iff` describes. -/
theorem defaultDivisorIsTheLeastTotal : Obligations.DefaultDivisorIsTheLeastTotal := by
  unfold Obligations.DefaultDivisorIsTheLeastTotal
  intro ref hz hhz
  obtain ⟨htwo, hslow⟩ := (clkDivTotal_le_iff (ref := ref) hhz).1 le_rfl
  dsimp only
  rw [clkDivDefault_total]
  exact ⟨htwo, hslow, fun t ht href => (clkDivTotal_le_iff hhz).2 ⟨ht, href⟩, clkDivDefault_oddUnitHigh ref hz⟩

end Sys2Proof

namespace Sys2Proof.Machine

/-- Settles O11: an idle block's answer to CFGCLK is its acceptance, whose guard is R106. -/
theorem otherFrequenciesAreRefused : Obligations.OtherFrequenciesAreRefused := by
  unfold Obligations.OtherFrequenciesAreRefused
  exact fun s hz hi hother => (exec_ofCommand hi (.cfgclk hz)).trans (if_pos hother)

/-- Settles O14: both micro-operations read `HZ`; CK_SEL's event is its whole effect, CK_DIV is one bank store. -/
theorem clockConfiguratorStores : Obligations.ClockConfiguratorStores := by
  unfold Obligations.ClockConfiguratorStores
  exact fun s hz hhz => ⟨need_of_eq _ hhz, (need_of_eq _ hhz).trans (storeStep_eq .clkdiv _ .done s)⟩

end Sys2Proof.Machine
end

section
/-! PROOFS. The rows of a wait: its checks, delays and clears. -/

namespace Sys2Proof.Machine

/-! ## Checks -/

/-- In an allowed layout the test a check makes is the flag itself. -/
theorem hasFlag_ipdWord {s : State} (hwf : s.cfg.layout.wf = true) (f : Flag) :
    hasFlag s.cfg.layout s.ipdWord f = s.bank.ipd.get f := Flags.hasFlag_word hwf s.bank.ipd s.bank.ipdOther f

/-- The three ways a single-flag check ends, in one state. -/
theorem checkStep_of_wf {s : State} {n : Word} {x : ErrLatch} (f : Flag) (found timedOut again : MicroState)
    (hwf : s.cfg.layout.wf = true) (hn : s.seq.countdown = some n) (hx : s.seq.err = some x) :
    checkStep f found timedOut again s = .next { s with
      upc := if s.bank.ipd.get f = true then found.code else if n = 0#32 then timedOut.code else again.code,
      seq := { s.seq with
        sample := some s.ipdWord,
        err := if s.bank.ipd.get f = false ∧ n = 0#32 then some (x.record .timeout) else some x },
      trace := s.trace ++ [.rd .ipd s.ipdWord] } := by
  rw [checkStep_of_latch f found timedOut again hn hx, hasFlag_ipdWord hwf]
  cases s.bank.ipd.get f with
  | true => simp [State.goto, State.sampleIpd, hx]
  | false =>
    by_cases hzero : n = 0#32
    · simp [State.goto, State.sampleIpd, State.record, hzero]
    · simp [State.goto, State.sampleIpd, hx, hzero]

/-- Settles O23: both checks are the single-flag check, of STARTIPD and of STOPIPD. -/
theorem singleFlagCheckDecides : Obligations.SingleFlagCheckDecides := by
  unfold Obligations.SingleFlagCheckDecides
  exact fun s n x hwf hn hx => ⟨checkStep_of_wf .start .stAck .spClr .stDly hwf hn hx,
    checkStep_of_wf .stop .spAck .dis .spDly hwf hn hx⟩

/-- Settles O30: the four ways a transmit check ends, by the flags it reads. -/
theorem transmitCheckDecides : Obligations.TransmitCheckDecides := by
  unfold Obligations.TransmitCheckDecides
  intro s n x hwf hn hx
  show execTxChk s = _
  rw [execTxChk_of_latch hn hx, hasFlag_ipdWord hwf, hasFlag_ipdWord hwf]
  simp only [Flags.get]
  by_cases hnak : s.bank.ipd.nakrcv = true
  · simp [State.goto, State.sampleIpd, hx, hnak]
  by_cases hmbtf : s.bank.ipd.mbtf = true
  · simp [State.goto, State.sampleIpd, hx, hnak, hmbtf]
  by_cases hzero : n = 0#32
  · simp [State.goto, State.sampleIpd, State.record, hnak, hmbtf, hzero]
  · simp [State.goto, State.sampleIpd, hx, hnak, hmbtf, hzero]

/-! ## Delays -/

/-- A quantum takes one from a countdown that is not 0. -/
theorem sub_one_eq_ofNat {n : Word} (hne : n ≠ 0#32) : n - 1#32 = BitVec.ofNat 32 (n.toNat - 1) := by
  bv_omega

/-- Settles O27: the three delays are the one quantum. -/
theorem quantumDelaysAndCountsDown : Obligations.QuantumDelaysAndCountsDown := by
  unfold Obligations.QuantumDelaysAndCountsDown
  intro s n hn hne
  rw [← sub_one_eq_ofNat hne]
  exact ⟨quantumStep_of_countdown .stChk hn, quantumStep_of_countdown .txChk hn, quantumStep_of_countdown .spChk hn⟩

/-! ## Clears -/

section
variable {y : Layout} (hwf : y.wf = true) (x : Flags)
include hwf

theorem clearBy_mask_start : x.clearBy y (y.mask .start) = { x with start := false } := by
  simp [Flags.clearBy_mask hwf]

theorem clearBy_mask_stop : x.clearBy y (y.mask .stop) = { x with stop := false } := by
  simp [Flags.clearBy_mask hwf]

theorem clearBy_mask_nakrcv : x.clearBy y (y.mask .nakrcv) = { x with nakrcv := false } := by
  simp [Flags.clearBy_mask hwf]

end

/-- The words of a chunk, by the ceiling of R9. -/
theorem wordCountOf_chunkSizeOf (depth : Nat) (rem : Word) :
    wordCountOf (chunkSizeOf depth rem) = BitVec.ofNat 32 (ceilDiv (min rem.toNat depth) 4) := by
  rw [wordCountOf, toNat_chunkSizeOf]
  rfl

/-- Settles O26: a store of a single-flag mask clears that flag. -/
theorem acknowledgeClearsTheSeenFlag : Obligations.AcknowledgeClearsTheSeenFlag := by
  unfold Obligations.AcknowledgeClearsTheSeenFlag
  refine fun s hwf => ⟨fun rem hrem => (execStAck_of_bytesRem hrem).trans ?_, (storeStep_eq .ipd _ .dis s).trans ?_⟩
  · rw [← wordCountOf_chunkSizeOf, ← clearBy_mask_start hwf]
    rfl
  · rw [← clearBy_mask_stop hwf]
    rfl

theorem record_noAck_eq (x : ErrLatch) : x.record .noAck = if x = .noError then .error .noAck else x := by
  cases x <;> rfl

/-- Settles O31: the clear, the record, and the three ways TX_NAK goes on. -/
theorem nackIsRecordedAndTheWaitGoesOn : Obligations.NackIsRecordedAndTheWaitGoesOn := by
  unfold Obligations.NackIsRecordedAndTheWaitGoesOn
  intro s v n x hwf hv hn hx
  refine (execTxNak_of_latch hv hn hx).trans ?_
  rw [← record_noAck_eq, ← clearBy_mask_nakrcv hwf, hasFlag_eq_getLsbD, State.goto, apply_ite MicroState.code,
    apply_ite MicroState.code]
  rfl

end Sys2Proof.Machine
end

section
/-! PROOFS. How long a wait lasts: a flag that is never set, and a flag that is seen at some check. -/

namespace Sys2Proof.Machine

/-! ## Turns in which a flag stays clear -/

/-- Flag `f` is clear, and stays so through the next `k` turns. -/
def StaysClear (f : Flag) (k : Nat) (s : State) : Prop := s.bank.ipd.get f = false ∧ NotSetBetween f 0 k s

theorem StaysClear.mono {f : Flag} {j k : Nat} {s : State} (h : StaysClear f k s) (hjk : j ≤ k) : StaysClear f j s :=
  ⟨h.1, fun i hi hij => h.2 i hi (hij.trans_le hjk)⟩

theorem get_ctlMove_eq (s : State) (m : EnvMove) (f : Flag) :
    (s.ctlMove m).bank.ipd.get f = (s.bank.ipd.get f || m.set.get f) := Flags.get_setBy s.bank.ipd m.set f

theorem envMove_eq_moveAt (s : State) : s.envMove = s.moveAt 0 := rfl

theorem StaysClear.ctlMove {f : Flag} {k : Nat} {s : State} (h : StaysClear f (k + 1) s) :
    StaysClear f k (s.ctlMove s.envMove) := by
  obtain ⟨hclear, hnot⟩ := h
  refine ⟨?_, fun i _ hi => ?_⟩
  · rw [get_ctlMove_eq, hclear, envMove_eq_moveAt, hnot 0 le_rfl k.succ_pos]
    rfl
  · rw [moveAt_ctlMove]
    exact hnot (i + 1) (Nat.zero_le _) (Nat.succ_lt_succ hi)

/-! ## The quantum of a wait -/

/-- The state of a wait's next check: from its delay at `t`, with `n` in `COUNTDOWN`, the quantum and the two turns
around it. -/
def State.afterQuantum (t : State) (retry : MicroState) (n : Word) : State :=
  let w := (((t.ctlMove t.envMove).delay pollQuantumUs).setCountdown (n - 1#32)).goto retry
  w.ctlMove w.envMove

section
variable (t : State) (retry : MicroState) (n : Word)

@[simp] theorem afterQuantum_cfg : (t.afterQuantum retry n).cfg = t.cfg := rfl
@[simp] theorem afterQuantum_trace : (t.afterQuantum retry n).trace = t.trace ++ [.dly 1] := rfl

theorem moveAt_afterQuantum (k : Nat) : (t.afterQuantum retry n).moveAt k = t.moveAt (k + 2) := by
  rw [State.afterQuantum, moveAt_ctlMove]
  exact moveAt_ctlMove t t.envMove (k + 1)

theorem get_afterQuantum (f : Flag) : (t.afterQuantum retry n).bank.ipd.get f =
    (t.bank.ipd.get f || (t.moveAt 0).set.get f || (t.moveAt 1).set.get f) := by
  rw [State.afterQuantum, get_ctlMove_eq, ← moveAt_ctlMove t t.envMove 0]
  show ((t.ctlMove t.envMove).bank.ipd.get f || _) = _
  rw [get_ctlMove_eq]
  rfl

theorem waitFrame_afterQuantum : WaitFrame t (t.afterQuantum retry n) :=
  (((WaitFrame.ctlMove t _).trans (.delay _ _)).trans (.setCountdown _ _)).trans
    ((WaitFrame.goto _ retry).trans (.ctlMove _ _))
end

theorem NoResetWithin.afterQuantum {k : Nat} {t : State} (h : NoResetWithin (k + 2) t) (retry : MicroState) (n : Word) :
    NoResetWithin k (t.afterQuantum retry n) := fun i hi => by
  rw [moveAt_afterQuantum]
  exact h (i + 2) (Nat.add_lt_add_right hi 2)

theorem StaysClear.afterQuantum {f : Flag} {k : Nat} {t : State} (h : StaysClear f (k + 2) t) (retry : MicroState)
    (n : Word) : StaysClear f k (t.afterQuantum retry n) := by
  obtain ⟨hclear, hnot⟩ := h
  refine ⟨?_, fun i _ hi => ?_⟩
  · rw [get_afterQuantum, hclear, hnot 0 le_rfl (by omega), hnot 1 (by omega) (by omega)]
    rfl
  · rw [moveAt_afterQuantum]
    exact hnot (i + 2) (Nat.zero_le _) (Nat.add_lt_add_right hi 2)

/-- A flag first seen `k + 1` checks from now is first seen `k` checks from the next one. -/
theorem SeenFirstAt.afterQuantum {f : Flag} {k : Nat} {t : State} (h : SeenFirstAt f (k + 1) t) (retry : MicroState)
    (n : Word) : SeenFirstAt f k (t.afterQuantum retry n) := by
  obtain ⟨hclear, hnot, hset⟩ := h
  cases k with
  | zero =>
    show (t.afterQuantum retry n).bank.ipd.get f = true
    rw [get_afterQuantum, hclear, Bool.false_or, Bool.or_eq_true]
    exact hset
  | succ k =>
    obtain ⟨hclear', hnot'⟩ := StaysClear.afterQuantum (f := f) (k := 2 * k) ⟨hclear, hnot⟩ retry n
    refine ⟨hclear', hnot', ?_⟩
    rw [moveAt_afterQuantum, moveAt_afterQuantum]
    exact hset

/-- From a wait's delay with a quantum left, the loop comes to its next check. -/
theorem thenAt_again {t : State} {again retry : MicroState} {n : Word} (g : State → Answer)
    (hagain : again ≠ .idle) (hretry : retry ≠ .idle) (ht : t.isAt again) (hn : t.seq.countdown = some n)
    (hr : NoResetWithin 2 t) :
    thenAt (.next t) again (fun v => thenAt (quantumStep retry v) retry g) = g (t.afterQuantum retry n) := by
  let v := t.ctlMove t.envMove
  let w := ((v.delay pollQuantumUs).setCountdown (n - 1#32)).goto retry
  have hw : NoResetWithin 1 w := hr.ctlMove t.envMove
  have hq : quantumStep retry v = .next w := quantumStep_of_countdown retry hn
  rw [thenAt_busy _ hagain ht hr]
  show thenAt (quantumStep retry v) retry g = _
  rw [hq, thenAt_busy g hretry rfl hw]
  rfl

/-! ## Checks that find nothing -/

/-- `u` is the state of the `k + 1`-st check of a wait that began at `s`, with `j` quanta left: until then the checks
found nothing and the delays passed. -/
structure AtCheck (k j : Nat) (s u : State) : Prop where
  frame : WaitFrame s u
  countdown : ∃ n : Word, u.seq.countdown = some n ∧ n.toNat = j
  err : u.seq.err = s.seq.err
  trace : ∃ es, u.trace = s.trace ++ es ∧ es.map Event.kind ++ [.check] = waitPattern k

theorem AtCheck.refl {s : State} {n : Word} (hn : s.seq.countdown = some n) : AtCheck 0 n.toNat s s :=
  ⟨.refl s, ⟨n, hn, rfl⟩, rfl, [], (List.append_nil _).symm, rfl⟩

/-- One check and one delay more at the front. -/
theorem AtCheck.of_afterQuantum {k j : Nat} {s u : State} {again retry : MicroState} {n : Word}
    (h : AtCheck k j ((s.sampleIpd.goto again).afterQuantum retry n) u) : AtCheck (k + 1) j s u := by
  obtain ⟨hframe, hcount, herr, es, htrace, hkinds⟩ := h
  refine ⟨?_, hcount, herr, .rd .ipd s.ipdWord :: .dly 1 :: es, ?_, ?_⟩
  · exact (((WaitFrame.sampleIpd s).trans (.goto _ again)).trans (waitFrame_afterQuantum _ retry n)).trans hframe
  · simp [htrace]
  · rw [waitPattern, ← hkinds]
    rfl

/-- The loop of a wait that is searching: `J k` says that the next `k` checks will find nothing. Such a check goes to
the delay while quanta are left, and the check after it has one less of them ahead. -/
structure Searches (J : Nat → State → Prop) (round : State → Answer) (again retry : MicroState) : Prop where
  again_busy : again ≠ .idle
  retry_busy : retry ≠ .idle
  quiet : ∀ {k : Nat} {s : State} {n : Word} {x : ErrLatch}, J (k + 1) s → s.cfg.layout.wf = true →
    s.seq.countdown = some n → n ≠ 0#32 → s.seq.err = some x → round s = .next (s.sampleIpd.goto again)
  next : ∀ {k : Nat} {s : State} (n : Word), J (k + 1) s → J k ((s.sampleIpd.goto again).afterQuantum retry n)

/-- While the checks find nothing and quanta are left, the loop goes on from check to check. -/
theorem waitLoop_of_quiet {m : Nat} {again retry : MicroState} {round : State → Answer} {J : Nat → State → Prop}
    (hsearch : Searches J round again retry) (j : Nat) :
    ∀ (k : Nat) (s : State) (n : Word) (x : ErrLatch), n.toNat = j + k → s.cfg.layout.wf = true →
      s.seq.countdown = some n → s.seq.err = some x → NoResetWithin (2 * k + m) s → J k s →
      ∃ u, waitLoop round again retry (j + k) s = waitLoop round again retry j u ∧ AtCheck k j s u ∧ J 0 u ∧
        NoResetWithin m u := by
  intro k
  induction k with
  | zero =>
    intro s n x hk _ hn _ hr hJ
    obtain rfl : n.toNat = j := hk
    exact ⟨s, rfl, .refl hn, hJ, by simpa using hr⟩
  | succ k ih =>
    intro s n x hk hwf hn hx hr hJ
    have hne : n ≠ 0#32 := by
      rintro rfl
      simp at hk
    have hr' : NoResetWithin (2 * k + m + 2) (s.sampleIpd.goto again) := hr.mono (by omega)
    obtain ⟨u, hu, hat, hJu, hru⟩ := ih ((s.sampleIpd.goto again).afterQuantum retry n) _ x (toNat_sub_one hk) hwf
      rfl hx (hr'.afterQuantum retry n) (hsearch.next n hJ)
    refine ⟨u, ?_, hat.of_afterQuantum, hJu, hru⟩
    rw [← hu, ← Nat.add_assoc, waitLoop, hsearch.quiet hJ hwf hn hne hx,
      thenAt_again (t := s.sampleIpd.goto again) _ hsearch.again_busy hsearch.retry_busy rfl hn (hr'.mono (by omega))]

/-! ## A flag that is never set -/

section
variable {s : State} {n : Word} {x : ErrLatch} {f : Flag} {found timedOut again : MicroState}

/-- A check that finds its flag clear with quanta left is the whole round. -/
theorem pollRound_of_quantaLeft (clear : State → Answer) (hfound : found ≠ again) (hwf : s.cfg.layout.wf = true)
    (hn : s.seq.countdown = some n) (hne : n ≠ 0#32) (hx : s.seq.err = some x) (hf : s.bank.ipd.get f = false) :
    pollRound (checkStep f found timedOut again) clear found s = .next (s.sampleIpd.goto again) := by
  rw [pollRound, checkStep_of_latch f found timedOut again hn hx, hasFlag_ipdWord hwf, hf, if_neg (by decide),
    if_neg hne, thenAt_not_at _ (not_isAt_goto hfound.symm _)]

/-- A check that finds its flag clear with no quantum left records `Timeout`. -/
theorem pollRound_of_noQuanta (clear : State → Answer) (hfound : found ≠ timedOut) (hwf : s.cfg.layout.wf = true)
    (hn : s.seq.countdown = some 0#32) (hx : s.seq.err = some x) (hf : s.bank.ipd.get f = false) :
    pollRound (checkStep f found timedOut again) clear found s =
      .next ((s.sampleIpd.record x .timeout).goto timedOut) := by
  rw [pollRound, checkStep_of_latch f found timedOut again hn hx, hasFlag_ipdWord hwf, hf, if_neg (by decide),
    if_pos rfl, thenAt_not_at _ (not_isAt_goto hfound.symm _)]

/-- A check that finds its flag goes to the clear. -/
theorem pollRound_of_flag (clear : State → Answer) (hwf : s.cfg.layout.wf = true) (hf : s.bank.ipd.get f = true) :
    pollRound (checkStep f found timedOut again) clear found s =
      thenAt (.next (s.sampleIpd.goto found)) found clear := by
  rw [pollRound, checkStep_of_flag found timedOut again ((hasFlag_ipdWord hwf f).trans hf)]
end

/-- The answer of a single-flag wait for `f` that began at `s` with `n` in `COUNTDOWN` and `x` in `ERR` and timed
out. -/
def PollTimesOut (f : Flag) (timedOut : MicroState) (s : State) (n : Word) (x : ErrLatch) (o : Answer) : Prop :=
  waitResult f o = some .timedOut ∧
  ∃ t es, o = .next t ∧ t.isAt timedOut ∧ t.seq.countdown = some 0#32 ∧ t.seq.err = some (x.record .timeout) ∧
    t.trace = s.trace ++ es ∧ es.map Event.kind = waitPattern n.toNat

/-- A single-flag wait whose flag stays clear spends its budget and times out at the check after it. -/
theorem pollLoop_timesOut {s : State} {n : Word} {x : ErrLatch} {f : Flag} {found timedOut again retry : MicroState}
    (clear : State → Answer) (hdist : [.idle, found, timedOut, again].Nodup) (hretry : retry ≠ .idle)
    (hwf : s.cfg.layout.wf = true) (hn : s.seq.countdown = some n) (hx : s.seq.err = some x)
    (hf : StaysClear f (2 * n.toNat) s) (hr : NoResetWithin (2 * n.toNat) s) :
    PollTimesOut f timedOut s n x
      (waitLoop (pollRound (checkStep f found timedOut again) clear found) again retry n.toNat s) := by
  simp only [List.nodup_cons, List.mem_cons, List.not_mem_nil, or_false, not_or] at hdist
  obtain ⟨⟨-, hidle, hagain⟩, ⟨hto, hfound⟩, -⟩ := hdist
  have hsearch : Searches (fun k => StaysClear f (2 * k)) (pollRound (checkStep f found timedOut again) clear found)
      again retry :=
    { again_busy := Ne.symm hagain
      retry_busy := hretry
      quiet := fun h hwf hn hne hx => pollRound_of_quantaLeft clear hfound hwf hn hne hx h.1
      next := fun n h => StaysClear.afterQuantum (t := State.goto (State.sampleIpd _) again) h retry n }
  obtain ⟨u, hu, ⟨hframe, ⟨z, hz, hzero⟩, herr, es, htrace, hkinds⟩, huf, -⟩ :=
    waitLoop_of_quiet (m := 0) hsearch 0 n.toNat s n x (Nat.zero_add _).symm hwf hn hx hr hf
  obtain rfl : z = 0#32 := BitVec.eq_of_toNat_eq hzero
  have hend := hu.trans (pollRound_of_noQuanta (again := again) clear hto (hframe.cfg ▸ hwf) hz (herr.trans hx) huf.1)
  rw [Nat.zero_add] at hend
  rw [hend]
  refine ⟨waitResult_of_check (v := u.ipdWord) (not_isAt_goto (Ne.symm hidle) _) (by simp), _,
    es ++ [.rd .ipd u.ipdWord], rfl, rfl, hz, rfl, ?_, ?_⟩
  · simp [htrace]
  · rw [List.map_append, ← hkinds]
    rfl

/-! ## The transmit wait whose completion flag is never set -/

/-- Two flags have two masks. -/
theorem mask_ne {y : Layout} (hwf : y.wf = true) {f g : Flag} (hne : f ≠ g) : y.mask f ≠ y.mask g := by
  intro h
  have hg := hasFlag_mask hwf g f
  rw [← h, hasFlag_mask hwf, decide_eq_true rfl] at hg
  exact hne (of_decide_eq_true hg.symm).symm

/-- A wait that does not end with the clear of its flag has timed out. -/
theorem waitResult_of_noClear {f : Flag} {t : State} (h : ¬ t.isAt .idle)
    (hl : t.trace.getLast? ≠ some (.w .ipd (t.cfg.layout.mask f))) : waitResult f (.next t) = some .timedOut := by
  rw [waitResult_next, if_neg h, if_neg hl]

/-- The state after a transmit check that shows a NACK and the clear of it, but for `upc`. -/
def State.clearedNack (s : State) (x : ErrLatch) : State :=
  let v := s.sampleIpd.goto .txNak
  let w := v.ctlMove v.envMove
  (w.regWrite .ipd (w.cfg.layout.mask .nakrcv)).record x .noAck

section
variable {s : State} {n : Word} {x : ErrLatch} (hwf : s.cfg.layout.wf = true)
include hwf

/-- A transmit check that finds a NACK and no completion clears the NACK, and times out or goes to the delay. -/
theorem txCheck_of_nack {m : Nat} (hn : s.seq.countdown = some n) (hx : s.seq.err = some x)
    (hnak : s.bank.ipd.get .nakrcv = true) (hf : s.bank.ipd.get .mbtf = false) (hr : NoResetWithin (m + 1) s) :
    txCheck s = .next ((s.clearedNack x).goto (if n = 0#32 then .spClr else .txDly)) := by
  let v := s.sampleIpd.goto .txNak
  let w := v.ctlMove v.envMove
  have hv : NoResetWithin (m + 1) v := hr
  have hmbtf : ¬ hasFlag w.cfg.layout s.ipdWord .mbtf = true := by
    rw [show w.cfg = s.cfg from rfl, hasFlag_ipdWord hwf, hf]
    decide
  rw [txCheck, execTxChk_of_latch hn hx, hasFlag_ipdWord hwf, if_pos hnak,
    thenAt_busy execTxNak (by decide) (t := v) rfl hv, execTxNak_of_latch (s := w) (v := s.ipdWord) rfl hn hx,
    if_neg hmbtf, thenAt_not_at]
  · rfl
  · split <;> exact not_isAt_goto (by decide) _

/-- A transmit check that finds neither flag times out, or goes to the delay. -/
theorem txCheck_of_clear (hn : s.seq.countdown = some n) (hx : s.seq.err = some x)
    (hnak : s.bank.ipd.get .nakrcv = false) (hf : s.bank.ipd.get .mbtf = false) :
    txCheck s = .next (if n = 0#32 then (s.sampleIpd.record x .timeout).goto .spClr else s.sampleIpd.goto .txDly) := by
  rw [txCheck, execTxChk_of_latch hn hx, hasFlag_ipdWord hwf, hasFlag_ipdWord hwf, hnak, hf, if_neg (by decide),
    if_neg (by decide), thenAt_not_at, thenAt_not_at]
  · split <;> exact not_isAt_goto (by decide) _
  · split <;> exact not_isAt_goto (by decide) _

end

/-- The latch after a transmit check that finds no completion: a NACK that the sample shows, else a timeout if no
quantum is left. -/
def latchAfterCheck (nack : Bool) (n : Word) (x : ErrLatch) : ErrLatch :=
  if nack then x.record .noAck else if n = 0#32 then x.record .timeout else x

/-- The round of a transmit wait that finds no completion, the clear of a NACK included: it leaves the wait if no
quantum is left, and goes to the delay else. -/
theorem txCheck_of_noCompletion {m : Nat} {s : State} {n : Word} {x : ErrLatch} (hwf : s.cfg.layout.wf = true)
    (hn : s.seq.countdown = some n) (hx : s.seq.err = some x) (hf : StaysClear .mbtf (m + 1) s)
    (hr : NoResetWithin (m + 1) s) :
    ∃ t, txCheck s = .next t ∧ t.isAt (if n = 0#32 then .spClr else .txDly) ∧ t.cfg = s.cfg ∧
      t.seq.countdown = some n ∧ t.seq.err = some (latchAfterCheck (hasFlag s.cfg.layout s.ipdWord .nakrcv) n x) ∧
      t.trace = s.trace ++ withNackClears s.cfg.layout [.rd .ipd s.ipdWord] ∧
      StaysClear .mbtf m t ∧ NoResetWithin m t := by
  rw [hasFlag_ipdWord hwf]
  by_cases hnak : s.bank.ipd.get .nakrcv = true
  · let v := s.sampleIpd.goto .txNak
    let w := v.ctlMove v.envMove
    have hv : NoResetWithin (m + 1) v := hr
    have hw : StaysClear .mbtf m w := StaysClear.ctlMove (s := v) hf
    have hclear : (s.clearedNack x).bank.ipd.get .mbtf = false :=
      (Flags.get_clearBy w.bank.ipd _ _ _).trans (by rw [hw.1, Bool.false_and])
    refine ⟨_, txCheck_of_nack hwf hn hx hnak hf.1 hr, rfl, rfl, hn, ?_, ?_, ⟨hclear, hw.2⟩, hv.ctlMove v.envMove⟩
    · rw [hnak]
      rfl
    · simp [State.clearedNack, withNackClears, Event.shows, hasFlag_ipdWord hwf, hnak]
  · have hnak := Bool.eq_false_iff.2 hnak
    have htrace : s.trace ++ [.rd .ipd s.ipdWord] = s.trace ++ withNackClears s.cfg.layout [.rd .ipd s.ipdWord] := by
      simp [withNackClears, Event.shows, hasFlag_ipdWord hwf, hnak]
    rw [txCheck_of_clear hwf hn hx hnak hf.1, hnak]
    refine ⟨_, rfl, ?_⟩
    have hf' := hf.mono (Nat.le_succ m)
    have hr' := hr.mono (Nat.le_succ m)
    by_cases hzero : n = 0#32
    · rw [if_pos hzero, if_pos hzero]
      exact ⟨rfl, rfl, hn, by simp [latchAfterCheck, hzero], htrace, hf', hr'⟩
    · rw [if_neg hzero, if_neg hzero]
      exact ⟨rfl, rfl, hn, by simp [latchAfterCheck, hzero, hx], htrace, hf', hr'⟩

/-- The answer of a transmit wait that began at `s` with `n` in `COUNTDOWN` and `x` in `ERR` and timed out. -/
def TxWaitTimesOut (s : State) (n : Word) (x : ErrLatch) (o : Answer) : Prop :=
  waitResult .mbtf o = some .timedOut ∧
  ∃ t es, o = .next t ∧ t.isAt .spClr ∧ t.seq.countdown = some 0#32 ∧
    es.map Event.kind = waitPattern n.toNat ∧ t.trace = s.trace ++ withNackClears s.cfg.layout es ∧
    t.seq.err = some (x.record (if es.any (Event.shows s.cfg.layout .nakrcv) then .noAck else .timeout))

theorem txWaitLoop_timesOut : ∀ (k : Nat) (s : State) (n : Word) (x : ErrLatch), n.toNat = k →
    s.cfg.layout.wf = true → s.seq.countdown = some n → s.seq.err = some x → StaysClear .mbtf (3 * k + 1) s →
    NoResetWithin (3 * k + 1) s → TxWaitTimesOut s n x (waitLoop txCheck .txDly .txChk k s) := by
  intro k
  induction k with
  | zero =>
    intro s n x hk hwf hn hx hf hr
    obtain rfl : n = 0#32 := BitVec.eq_of_toNat_eq hk
    obtain ⟨t, ht, hat, hcfg, htn, hterr, httrace, -⟩ := txCheck_of_noCompletion hwf hn hx hf hr
    rw [if_pos rfl] at hat
    rw [waitLoop, ht]
    refine ⟨waitResult_of_noClear (not_isAt_of_isAt hat (by decide)) ?_, t, [.rd .ipd s.ipdWord], rfl, hat, htn, rfl,
      httrace, ?_⟩
    · have hmask := mask_ne hwf (show Flag.nakrcv ≠ .mbtf by decide)
      rw [httrace, hcfg]
      cases hnak : hasFlag s.cfg.layout s.ipdWord .nakrcv <;> simp [withNackClears, Event.shows, hnak, hmask]
    · rw [hterr]
      cases hnak : hasFlag s.cfg.layout s.ipdWord .nakrcv <;> simp [latchAfterCheck, Event.shows, hnak]
  | succ k ih =>
    intro s n x hk hwf hn hx hf hr
    have hne : n ≠ 0#32 := by
      rintro rfl
      simp at hk
    obtain ⟨t, ht, hat, hcfg, htn, hterr, httrace, htf, htr⟩ :=
      txCheck_of_noCompletion (m := 3 * k + 1 + 2) hwf hn hx hf hr
    rw [if_neg hne] at hat
    obtain ⟨hres, u, es, hu, huat, hun, hkinds, hutrace, huerr⟩ :=
      ih (t.afterQuantum .txChk n) (n - 1#32) _ (toNat_sub_one hk) (hcfg ▸ hwf) rfl hterr
        (htf.afterQuantum .txChk n) (htr.afterQuantum .txChk n)
    rw [waitLoop, ht, thenAt_again _ (by decide) (by decide) hat htn (htr.mono (by omega))]
    rw [afterQuantum_cfg, hcfg] at hutrace huerr
    refine ⟨hres, u, .rd .ipd s.ipdWord :: .dly 1 :: es, hu, huat, hun, ?_, ?_, ?_⟩
    · rw [hk, waitPattern, ← toNat_sub_one hk, ← hkinds]
      rfl
    · rw [hutrace, afterQuantum_trace, httrace]
      simp [withNackClears, Event.shows]
    · rw [huerr]
      cases hnak : hasFlag s.cfg.layout s.ipdWord .nakrcv <;> simp [latchAfterCheck, Event.shows, hnak, hne]

/-- Settles O35: each wait spends its budget, quantum by quantum. -/
theorem timedOutWaitHasOneMoreCheckThanDelays : Obligations.TimedOutWaitHasOneMoreCheckThanDelays := by
  unfold Obligations.TimedOutWaitHasOneMoreCheckThanDelays
  intro s n x hwf hn hx
  refine ⟨fun hclear hr hnot => ?_, fun hclear hr hnot => ?_, fun hclear hr hnot => ?_⟩
  · show PollTimesOut .start .spClr s n x (execPollStart s)
    rw [execPollStart, quanta_of_countdown hn, pollStartLoop_eq]
    exact pollLoop_timesOut execStAck (by decide) (by decide) hwf hn hx ⟨hclear, hnot⟩ hr
  · show PollTimesOut .stop .dis s n x (execPollStop s)
    rw [execPollStop, quanta_of_countdown hn, pollStopLoop_eq]
    exact pollLoop_timesOut execSpAck (by decide) (by decide) hwf hn hx ⟨hclear, hnot⟩ hr
  · show TxWaitTimesOut s n x (execTxWait s)
    rw [execTxWait, quanta_of_countdown hn, txWaitLoop_eq]
    exact txWaitLoop_timesOut _ s n x rfl hwf hn hx ⟨hclear, hnot⟩ hr

end Sys2Proof.Machine
end

section
/-! PROOFS. A flag that is first seen at some check of a wait, and acknowledged there. -/

namespace Sys2Proof.Machine

/-! ## The clear after the check -/

/-- The answer of a wait for `f` that began at `s` with `n` in `COUNTDOWN` and `x` in `ERR` and was acknowledged at its
`k + 1`-st check, its clear ending in a state that has `P`. -/
def AcknowledgedAt (f : Flag) (P : State → Prop) (k : Nat) (s : State) (n : Word) (x : ErrLatch) (o : Answer) : Prop :=
  waitResult f o = some .acknowledged ∧
  ∃ t es, o = .next t ∧ P t ∧ t.seq.countdown = some (BitVec.ofNat 32 (n.toNat - k)) ∧ t.seq.err = some x ∧
    t.trace = s.trace ++ es ∧ es.map Event.kind = waitPattern k ++ [.write]

/-- From `w` the clear of `f` answers a state that has `P`, with `COUNTDOWN` and `ERR` as they were. -/
def ClearsFlag (f : Flag) (P : State → Prop) (w : State) (o : Answer) : Prop :=
  ∃ t, o = .next t ∧ P t ∧ ¬ t.isAt .idle ∧ t.cfg = w.cfg ∧ t.seq.countdown = w.seq.countdown ∧
    t.seq.err = w.seq.err ∧ t.trace = w.trace ++ [.w .ipd (w.cfg.layout.mask f)]

theorem execStAck_clearsFlag {w : State} {rem : Word} (hrem : w.seq.bytesRem = some rem) :
    ClearsFlag .start (·.isAt .txFifo) w (execStAck w) :=
  ⟨_, execStAck_of_bytesRem hrem, rfl, not_isAt_goto (by decide) _, rfl, rfl, rfl, rfl⟩

theorem execSpAck_clearsFlag (w : State) : ClearsFlag .stop (·.isAt .dis) w (execSpAck w) :=
  ⟨_, rfl, rfl, not_isAt_goto (by decide) _, rfl, rfl, rfl, rfl⟩

/-- TX_ACK unwinds after an error or at the end of the stream, and else sets up the next chunk. -/
theorem execTxAck_clearsFlag {w : State} {rem off size : Word} {x : ErrLatch} (hrem : w.seq.bytesRem = some rem)
    (hoff : w.seq.streamOff = some off) (hsize : w.seq.chunkSize = some size) (hx : w.seq.err = some x) :
    ClearsFlag .mbtf (·.within [.txFifo, .spClr]) w (execTxAck w) := by
  have hstop : ∀ t : State, (t.goto .spClr).within [.txFifo, .spClr] := fun t => by simp [State.within]
  cases x with
  | error e => exact ⟨_, execTxAck_of_error hx, hstop _, not_isAt_goto (by decide) _, rfl, rfl, rfl, rfl⟩
  | noError =>
    refine ⟨_, execTxAck_of_noError hx hrem hoff hsize, ?_⟩
    rw [State.advance]
    dsimp only
    split
    · exact ⟨hstop _, not_isAt_goto (by decide) _, rfl, rfl, rfl, rfl⟩
    · exact ⟨by simp [State.within], not_isAt_goto (by decide) _, rfl, rfl, rfl, rfl⟩

/-! ## The wait -/

/-- The round of a wait goes from a check that finds its flag to the clear, and the clear leaves the wait. -/
theorem waitLoop_of_found {round clear : State → Answer} {found again retry : MicroState} {u : State}
    (hfound : found ≠ .idle) (hleaves : ∀ w t, clear w = .next t → ¬ t.isAt again)
    (hround : round u = thenAt (.next (u.sampleIpd.goto found)) found clear) (hr : NoResetWithin 1 u) (j : Nat) :
    ∃ w, waitLoop round again retry j u = clear w ∧ WaitFrame u w ∧ w.seq.countdown = u.seq.countdown ∧
      w.seq.err = u.seq.err ∧ w.trace = u.trace ++ [.rd .ipd u.ipdWord] := by
  let t := u.sampleIpd.goto found
  have ht : NoResetWithin 1 t := hr
  have hclear : round u = clear (t.ctlMove t.envMove) := hround.trans (thenAt_busy clear hfound rfl ht)
  refine ⟨t.ctlMove t.envMove, ?_, ((WaitFrame.sampleIpd u).trans (.goto _ found)).trans (.ctlMove t _), rfl, rfl, rfl⟩
  cases j with
  | zero => exact hclear
  | succ j =>
    rw [waitLoop, hclear]
    exact thenAt_of_leaves _ (hleaves _)

/-- The loop of a wait that will find its flag: `J k` says that the next `k` checks will find nothing and the one after
them the flag, from which the round goes to the clear, and the clear leaves the wait. -/
structure Finds (J : Nat → State → Prop) (round clear : State → Answer) (found again retry : MicroState) : Prop
    extends Searches J round again retry where
  found_busy : found ≠ .idle
  seen : ∀ {u : State} {n : Word} {x : ErrLatch}, J 0 u → u.cfg.layout.wf = true → u.seq.countdown = some n →
    u.seq.err = some x → round u = thenAt (.next (u.sampleIpd.goto found)) found clear
  leaves : ∀ w t, clear w = .next t → ¬ t.isAt again

/-- A wait whose flag is first seen at its `k + 1`-st check is acknowledged there. -/
theorem waitLoop_acknowledged {s : State} {n : Word} {x : ErrLatch} {k : Nat} {f : Flag} {P : State → Prop}
    {J : Nat → State → Prop} {round clear : State → Answer} {found again retry : MicroState}
    (hfind : Finds J round clear found again retry)
    (hclear : ∀ w, WaitFrame s w → w.seq.err = some x → ClearsFlag f P w (clear w))
    (hwf : s.cfg.layout.wf = true) (hn : s.seq.countdown = some n) (hx : s.seq.err = some x) (hk : k ≤ n.toNat)
    (hr : NoResetWithin (2 * k + 1) s) (hJ : J k s) :
    AcknowledgedAt f P k s n x (waitLoop round again retry n.toNat s) := by
  have hsplit : n.toNat = n.toNat - k + k := (Nat.sub_add_cancel hk).symm
  obtain ⟨u, hu, ⟨hsu, ⟨z, hz, hzn⟩, hux, es, hutrace, hkinds⟩, hJu, hur⟩ :=
    waitLoop_of_quiet hfind.toSearches (n.toNat - k) k s n x hsplit hwf hn hx hr hJ
  obtain ⟨w, hw, huw, hwn, hwx, hwtrace⟩ := waitLoop_of_found (retry := retry) hfind.found_busy hfind.leaves
    (hfind.seen hJu (hsu.cfg ▸ hwf) hz (hux.trans hx)) hur (n.toNat - k)
  obtain ⟨t, ht, hPt, hbusy, htcfg, htn, htx, httrace⟩ := hclear w (hsu.trans huw) (hwx.trans (hux.trans hx))
  have hend : waitLoop round again retry n.toNat s = .next t := by
    rw [hsplit, hu, hw, ht]
  rw [hend]
  refine ⟨waitResult_of_clear hbusy ?_, t, es ++ [.rd .ipd u.ipdWord] ++ [.w .ipd (w.cfg.layout.mask f)], rfl, hPt, ?_,
    ?_, ?_, ?_⟩
  · rw [httrace, htcfg]
    exact List.getLast?_concat
  · rw [htn, hwn, hz, ← hzn, BitVec.ofNat_toNat, BitVec.setWidth_eq]
  · rw [htx, hwx, hux, hx]
  · rw [httrace, hwtrace, hutrace]
    simp
  · rw [List.map_append, List.map_append, ← hkinds]
    rfl

/-- The single-flag wait finds its flag where it is first set. -/
theorem pollRound_finds {f : Flag} {clear : State → Answer} {found timedOut again retry : MicroState}
    (hdist : [.idle, found, timedOut, again].Nodup) (hretry : retry ≠ .idle)
    (hleaves : ∀ w t, clear w = .next t → ¬ t.isAt again) :
    Finds (SeenFirstAt f) (pollRound (checkStep f found timedOut again) clear found) clear found again retry := by
  simp only [List.nodup_cons, List.mem_cons, List.not_mem_nil, or_false, not_or] at hdist
  obtain ⟨⟨hif, -, hia⟩, ⟨-, hfa⟩, -⟩ := hdist
  exact
    { again_busy := Ne.symm hia
      retry_busy := hretry
      quiet := fun h hwf hn hne hx => pollRound_of_quantaLeft clear hfa hwf hn hne hx h.1
      next := fun n h => SeenFirstAt.afterQuantum (t := State.goto (State.sampleIpd _) again) h retry n
      found_busy := Ne.symm hif
      seen := fun h hwf _ _ => pollRound_of_flag clear hwf h
      leaves := hleaves }

/-- A transmit check that finds a completion and no NACK goes to TX_ACK. -/
theorem txCheck_of_completion {s : State} {n : Word} {x : ErrLatch} (hwf : s.cfg.layout.wf = true)
    (hn : s.seq.countdown = some n) (hx : s.seq.err = some x) (hnak : s.bank.ipd.get .nakrcv = false)
    (hf : s.bank.ipd.get .mbtf = true) :
    txCheck s = thenAt (.next (s.sampleIpd.goto .txAck)) .txAck execTxAck := by
  rw [txCheck, execTxChk_of_latch hn hx, hasFlag_ipdWord hwf, hasFlag_ipdWord hwf, hnak, hf, if_neg (by decide),
    if_pos rfl, thenAt_not_at execTxNak (not_isAt_goto (by decide) _)]

/-- The next `k` transmit checks find nothing, and the one after them a completion and no NACK. -/
def CompletesAt (k : Nat) (s : State) : Prop := SeenFirstAt .mbtf k s ∧ StaysClear .nakrcv (2 * k) s

/-- The transmit wait finds the completion where it is first set, if it sees no NACK. -/
theorem txCheck_finds : Finds CompletesAt txCheck execTxAck .txAck .txDly .txChk where
  again_busy := by decide
  retry_busy := by decide
  quiet := by
    rintro k s n x ⟨hf, hnak⟩ hwf hn hne hx
    rw [txCheck_of_clear hwf hn hx hnak.1 hf.1, if_neg hne]
  next := by
    rintro k s n ⟨hf, hnak⟩
    exact ⟨SeenFirstAt.afterQuantum (t := s.sampleIpd.goto .txDly) hf .txChk n,
      StaysClear.afterQuantum (t := s.sampleIpd.goto .txDly) hnak .txChk n⟩
  found_busy := by decide
  seen := by
    rintro u n x ⟨hf, hnak⟩ hwf hn hx
    exact txCheck_of_completion hwf hn hx hnak.1 hf
  leaves := execTxAck_leaves

/-- Settles O36: each wait goes on until its flag is seen, and clears it. -/
theorem flagSeenAtTheLastCheckIsAcknowledged : Obligations.FlagSeenAtTheLastCheckIsAcknowledged := by
  unfold Obligations.FlagSeenAtTheLastCheckIsAcknowledged
  intro s n x k hwf hn hx hk hr
  refine ⟨fun rem hrem hf => ?_, fun hf => ?_, fun rem off size hrem hoff hsize hf hnak hnot => ?_⟩
  · show AcknowledgedAt .start (·.isAt .txFifo) k s n x (execPollStart s)
    rw [execPollStart, quanta_of_countdown hn, pollStartLoop_eq]
    exact waitLoop_acknowledged (pollRound_finds (by decide) (by decide) execStAck_leaves)
      (fun w hsw _ => execStAck_clearsFlag (hsw.bytesRem.trans hrem)) hwf hn hx hk hr hf
  · show AcknowledgedAt .stop (·.isAt .dis) k s n x (execPollStop s)
    rw [execPollStop, quanta_of_countdown hn, pollStopLoop_eq]
    exact waitLoop_acknowledged (pollRound_finds (by decide) (by decide) execSpAck_leaves)
      (fun w _ _ => execSpAck_clearsFlag w) hwf hn hx hk hr hf
  · show AcknowledgedAt .mbtf (·.within [.txFifo, .spClr]) k s n x (execTxWait s)
    rw [execTxWait, quanta_of_countdown hn, txWaitLoop_eq]
    exact waitLoop_acknowledged txCheck_finds (fun w hsw hwx => execTxAck_clearsFlag (hsw.bytesRem.trans hrem)
      (hsw.streamOff.trans hoff) (hsw.chunkSize.trans hsize) hwx) hwf hn hx hk hr ⟨hf, hnak, hnot⟩

end Sys2Proof.Machine
end

section
/-! PROOFS. Every command comes to IDLE: a bound on the steps left, which every row makes smaller. -/

namespace Sys2Proof.Machine

/-! ## The steps left -/

/-- Steps enough for a chunk: its words, its trigger, and its wait with the largest budget. -/
def chunkSteps : Nat := 2 ^ 35

/-- Steps enough for a transaction. -/
def txnSteps : Nat := 2 ^ 68

/-- A transaction is its start wait, a chunk for each of its bytes, of which there are less than `2 ^ 32`, and its stop
wait. -/
theorem txnSteps_enough : chunkSteps * 2 ^ 32 + chunkSteps + 2 ^ 34 + 16 ≤ txnSteps := by decide

namespace SeqRegs

/-- The quanta left to a wait. -/
def quantaLeft (q : SeqRegs) : Nat := (q.countdown.getD 0#32).toNat

/-- The words of the chunk still to load. -/
def wordsLeft (q : SeqRegs) : Nat := (q.wordCnt.getD 0#32).toNat - (q.wordIdx.getD 0#32).toNat

/-- Steps enough for the probes after the current one; a WRTXN has none. -/
def probeSteps (q : SeqRegs) : Nat := txnSteps * (scanLast.toNat - (q.scanAddr.getD scanLast).toNat)

/-- Steps enough from the stop controller on. -/
def stopSteps (q : SeqRegs) : Nat := q.probeSteps + 2 ^ 33 + 9

/-- Steps enough for the bytes still to send and what comes after them. -/
def sendSteps (q : SeqRegs) : Nat := q.stopSteps + chunkSteps * (q.bytesRem.getD 0#32).toNat

/-- An upper bound of the steps from a micro-state to IDLE (spec/41_poll.md R120, spec/44_transaction.md R177): one for
what follows the phase, and the rows left in it, where a wait runs two or three for each quantum. -/
def stepsLeft (q : SeqRegs) : MicroState → Nat
  | .idle => 0
  | .done => 1
  | .ckDiv => 2
  | .ckSel => 3
  | .scDly => q.probeSteps + 2
  | .ret => q.probeSteps + 3
  | .dis => q.probeSteps + 4
  | .spAck => q.probeSteps + 5
  | .spDly => q.probeSteps + 2 * q.quantaLeft + 5
  | .spChk => q.probeSteps + 2 * q.quantaLeft + 6
  | .spIen => q.probeSteps + 2 ^ 33 + 7
  | .spCon => q.probeSteps + 2 ^ 33 + 8
  | .spClr => q.stopSteps
  | .txAck => q.sendSteps + 2
  | .txDly => q.sendSteps + 3 * q.quantaLeft + 3
  | .txNak => q.sendSteps + 3 * q.quantaLeft + 4
  | .txChk => q.sendSteps + 3 * q.quantaLeft + 5
  | .txIen => q.sendSteps + 3 * 2 ^ 32 + 6
  | .txCnt => q.sendSteps + 3 * 2 ^ 32 + 7
  | .txCon => q.sendSteps + 3 * 2 ^ 32 + 8
  | .txFifo => q.sendSteps + 3 * 2 ^ 32 + 8 + q.wordsLeft
  | .stAck => q.sendSteps + chunkSteps
  | .stDly => q.sendSteps + chunkSteps + 2 * q.quantaLeft + 1
  | .stChk => q.sendSteps + chunkSteps + 2 * q.quantaLeft + 2
  | .stIen => q.sendSteps + chunkSteps + 2 ^ 33 + 3
  | .stCon => q.sendSteps + chunkSteps + 2 ^ 33 + 4
  | .stClr => q.sendSteps + chunkSteps + 2 ^ 33 + 5
  | .txnInit => q.probeSteps + txnSteps
  | .scNext => q.probeSteps + txnSteps + 1

theorem wordsLeft_lt (q : SeqRegs) : q.wordsLeft < 2 ^ 32 :=
  (Nat.sub_le _ _).trans_lt (q.wordCnt.getD 0#32).isLt

theorem stopSteps_le_sendSteps (q : SeqRegs) : q.stopSteps ≤ q.sendSteps := Nat.le_add_right _ _

theorem stepsLeft_stClr_lt {q q' : SeqRegs} (h : q'.probeSteps = q.probeSteps) :
    q'.stepsLeft .stClr < q.stepsLeft .txnInit := by
  have henough := txnSteps_enough
  have hbytes := Nat.mul_le_mul_left chunkSteps (q'.bytesRem.getD 0#32).isLt.le
  simp only [stepsLeft, sendSteps, stopSteps, h]
  omega

/-- `SAMPLE` and `ERR` do not count. -/
theorem stepsLeft_sample_err (q : SeqRegs) (v : Option Word) (x : Option ErrLatch) (m : MicroState) :
    ({ q with sample := v, err := x } : SeqRegs).stepsLeft m = q.stepsLeft m := by
  cases m <;> rfl

end SeqRegs

/-- Less than `N` steps are left. -/
def State.EndsWithin (N : Nat) (t : State) : Prop := ∃ m, t.isAt m ∧ t.seq.stepsLeft m < N

theorem State.endsWithin_goto {N : Nat} {t : State} {m : MicroState} (h : t.seq.stepsLeft m < N) :
    (t.goto m).EndsWithin N := ⟨m, rfl, h⟩

/-! ## The rows -/

section
variable {s : State} {N : Nat}

theorem storeStep_endsWithin {reg : Reg} {v : Word} {m : MicroState} (h : s.seq.stepsLeft m < N) :
    Answers (State.EndsWithin N) (storeStep reg v m s) := State.endsWithin_goto h

theorem armStep_endsWithin {v : Word} {m : MicroState}
    (h : ∀ b : Word, ({ s.seq with countdown := some b } : SeqRegs).stepsLeft m < N) :
    Answers (State.EndsWithin N) (armStep v m s) := State.endsWithin_goto (h s.cfg.timeoutBudget)

/-- A delay spends one of the quanta left. -/
theorem quantumStep_endsWithin {m : MicroState} (hleft : s.QuantumLeft)
    (h : ∀ b : Word, s.seq.quantaLeft = b.toNat + 1 →
      ({ s.seq with countdown := some b } : SeqRegs).stepsLeft m < N) :
    Answers (State.EndsWithin N) (quantumStep m s) := by
  refine .need fun n hn => State.endsWithin_goto (h (n - 1#32) ?_)
  have hne := hleft.2
  rw [hn, Option.getD_some] at hne
  rw [SeqRegs.quantaLeft, hn, Option.getD_some]
  bv_omega

/-- A sample, with or without a record on it, takes no steps away but its own. -/
theorem sampleIpd_endsWithin {m : MicroState} (h : s.seq.stepsLeft m < N) : (s.sampleIpd.goto m).EndsWithin N :=
  State.endsWithin_goto ((SeqRegs.stepsLeft_sample_err s.seq (some s.ipdWord) s.seq.err m).trans_lt h)

theorem orTimeout_endsWithin {timedOut again : MicroState} (hto : s.seq.stepsLeft timedOut < N)
    (hagain : s.seq.stepsLeft again < N) :
    Answers (State.EndsWithin N) (s.sampleIpd.orTimeout timedOut again) := by
  refine .need fun n _ => ?_
  split
  · exact .need fun x _ => State.endsWithin_goto ((SeqRegs.stepsLeft_sample_err s.seq _ _ timedOut).trans_lt hto)
  · exact sampleIpd_endsWithin hagain

theorem checkStep_endsWithin {f : Flag} {found timedOut again : MicroState} (hfound : s.seq.stepsLeft found < N)
    (hto : s.seq.stepsLeft timedOut < N) (hagain : s.seq.stepsLeft again < N) :
    Answers (State.EndsWithin N) (checkStep f found timedOut again s) :=
  .ifSeen (sampleIpd_endsWithin hfound) (orTimeout_endsWithin hto hagain)

theorem execTxChk_endsWithin : Answers (State.EndsWithin (s.seq.stepsLeft .txChk)) (execTxChk s) := by
  have hstop := s.seq.stopSteps_le_sendSteps
  refine .ifSeen (sampleIpd_endsWithin ?_) (.ifSeen (sampleIpd_endsWithin ?_) (orTimeout_endsWithin ?_ ?_)) <;>
    simp only [SeqRegs.stepsLeft] <;> omega

theorem execTxNak_endsWithin : Answers (State.EndsWithin (s.seq.stepsLeft .txNak)) (execTxNak s) := by
  have hstop := s.seq.stopSteps_le_sendSteps
  refine .need fun v _ => .need fun x _ => ?_
  dsimp only
  split
  · refine State.endsWithin_goto ?_
    show s.seq.sendSteps + 2 < s.seq.sendSteps + 3 * s.seq.quantaLeft + 4
    omega
  · refine .need fun n _ => State.endsWithin_goto ?_
    split
    · show s.seq.stopSteps < s.seq.sendSteps + 3 * s.seq.quantaLeft + 4
      omega
    · show s.seq.sendSteps + 3 * s.seq.quantaLeft + 3 < s.seq.sendSteps + 3 * s.seq.quantaLeft + 4
      omega

theorem execTxnInit_endsWithin : Answers (State.EndsWithin (s.seq.stepsLeft .txnInit)) (execTxnInit s) :=
  .need fun _ _ => .need fun _ _ => State.endsWithin_goto (SeqRegs.stepsLeft_stClr_lt rfl)

/-- A chunk set up in `t` ends within a chunk's steps. -/
theorem chunkSetup_endsWithin {t : State} (rem : Word) (h : t.seq.sendSteps + chunkSteps ≤ N) :
    Answers (State.EndsWithin N) (.next ((t.chunkSetup rem).goto .txFifo)) := by
  refine State.endsWithin_goto ?_
  have hwords := (t.chunkSetup rem).seq.wordsLeft_lt
  show t.seq.sendSteps + 3 * 2 ^ 32 + 8 + (t.chunkSetup rem).seq.wordsLeft < N
  rw [chunkSteps] at h
  omega

theorem execStAck_endsWithin : Answers (State.EndsWithin (s.seq.stepsLeft .stAck)) (execStAck s) :=
  .need fun rem _ => chunkSetup_endsWithin (t := s.regWrite .ipd (s.cfg.layout.mask .start)) rem
    (Nat.le_refl (s.seq.sendSteps + chunkSteps))

/-- TX_FIFO loads one of the words left. -/
theorem execTxFifo_endsWithin (h : s.Phase .txFifo) :
    Answers (State.EndsWithin (s.seq.stepsLeft .txFifo)) (execTxFifo s) := by
  obtain ⟨-, -, -, hlt⟩ := h
  refine .need fun i hi => .need fun cnt hcnt => .need fun _ _ => .need fun _ _ => .need fun _ _ => .need fun _ _ =>
    .need fun _ _ => .need fun _ _ => .need fun _ _ => .txdataWrite fun w => State.endsWithin_goto ?_
  rw [hi, hcnt, Option.getD_some, Option.getD_some, BitVec.lt_def] at hlt
  have hwords : s.seq.wordsLeft = cnt.toNat - i.toNat := by simp only [SeqRegs.wordsLeft, hi, hcnt, Option.getD_some]
  split
  · show s.seq.sendSteps + 3 * 2 ^ 32 + 8 < s.seq.sendSteps + 3 * 2 ^ 32 + 8 + s.seq.wordsLeft
    omega
  · show s.seq.sendSteps + 3 * 2 ^ 32 + 8 + ((s.seq.wordCnt.getD 0#32).toNat - (i + 1#32).toNat) <
      s.seq.sendSteps + 3 * 2 ^ 32 + 8 + s.seq.wordsLeft
    rw [hcnt, Option.getD_some, hwords]
    bv_omega

/-- A chunk takes at least one byte from those left. -/
theorem toNat_sub_chunkSizeOf_lt {c : Config} (h : c.wf = true) {rem : Word} (hne : rem ≠ 0#32) :
    (rem - chunkSizeOf c.fifoDepthBytes rem).toNat < rem.toNat := by
  obtain ⟨hdepth, -⟩ := depth_of_wf h
  have hpos : rem.toNat ≠ 0 := fun h0 => hne (BitVec.eq_of_toNat_eq h0)
  have hsize := toNat_chunkSizeOf c.fifoDepthBytes rem
  rw [BitVec.toNat_sub_of_le (by rw [BitVec.le_def]; omega)]
  omega

theorem execTxAck_endsWithin (hc : s.ConfigOk) (h : s.Phase .txAck) :
    Answers (State.EndsWithin (s.seq.stepsLeft .txAck)) (execTxAck s) := by
  have hstop : s.seq.stopSteps < s.seq.sendSteps + 2 := by
    have := s.seq.stopSteps_le_sendSteps
    omega
  obtain ⟨⟨⟨⟨hrun, hset⟩, -⟩, -⟩, -⟩ := h
  refine .need fun x _ => ?_
  cases x with
  | error e => exact storeStep_endsWithin hstop
  | noError =>
    refine .need fun rem hrem => .need fun off _ => .need fun size hsize => ?_
    obtain ⟨hne, hchunk, -⟩ := hset
    rw [hrem, Option.getD_some] at hne
    rw [hrem, hsize] at hchunk
    obtain rfl := Option.some.inj hchunk
    rw [State.advance]
    dsimp only
    split
    · exact State.endsWithin_goto hstop
    · refine chunkSetup_endsWithin _ ?_
      have hless := Nat.mul_le_mul_left chunkSteps (toNat_sub_chunkSizeOf_lt hc.1 hne)
      have hsend : s.seq.sendSteps = s.seq.stopSteps + chunkSteps * rem.toNat := by
        rw [SeqRegs.sendSteps, hrem, Option.getD_some]
      show s.seq.stopSteps + chunkSteps * (rem - chunkSizeOf s.cfg.fifoDepthBytes rem).toNat + chunkSteps ≤
        s.seq.sendSteps + 2
      rw [Nat.mul_succ] at hless
      omega

theorem execRet_endsWithin : Answers (State.EndsWithin (s.seq.stepsLeft .ret)) (execRet s) := by
  refine .need fun c _ => ?_
  cases c with
  | cfgclk => trivial
  | wrtxn =>
    refine .need fun x _ => State.endsWithin_goto ?_
    show 1 < s.seq.probeSteps + 3
    omega
  | scan => exact .need fun x _ => .need fun a _ => State.endsWithin_goto (Nat.lt_succ_self (s.seq.probeSteps + 2))

/-- The scan ends, or goes on with one probe less to come. -/
theorem execScDly_endsWithin (h : s.Phase .scDly) :
    Answers (State.EndsWithin (s.seq.stepsLeft .scDly)) (execScDly s) := by
  refine .need fun a ha => ?_
  dsimp only
  refine State.endsWithin_goto ?_
  split
  next =>
    show 1 < s.seq.probeSteps + 2
    omega
  next hlast =>
    have hprobed : probed a = true := by simpa [ha] using h.1.2
    have hprobes : scanLast.toNat - a.toNat = scanLast.toNat - (a + 1#8).toNat + 1 := by
      simp only [probed, Bool.and_eq_true, decide_eq_true_eq] at hprobed
      simp only [scanLast] at hlast hprobed ⊢
      bv_omega
    show txnSteps * (scanLast.toNat - (a + 1#8).toNat) + txnSteps + 1 < s.seq.probeSteps + 2
    rw [SeqRegs.probeSteps, ha, Option.getD_some, hprobes, Nat.mul_succ]
    omega

/-- Every row takes a step from those left. -/
theorem exec_ofMicro_endsWithin {m : MicroState} (hm : m ≠ .idle) (hc : s.ConfigOk) (h : s.Phase m) :
    Answers (State.EndsWithin (s.seq.stepsLeft m)) (exec (Instr.ofMicro m) s) := by
  have hstop := s.seq.stopSteps_le_sendSteps
  cases m with
  | idle => exact absurd rfl hm
  | ckSel => exact .need fun hz _ => State.endsWithin_goto (Nat.lt_succ_self 2)
  | ckDiv => exact .need fun hz _ => State.endsWithin_goto (Nat.lt_succ_self 1)
  | txnInit => exact execTxnInit_endsWithin
  | stClr | stCon | txCon | spClr | spCon | spAck | dis => exact storeStep_endsWithin (Nat.lt_succ_self _)
  | stIen =>
    refine armStep_endsWithin fun b => ?_
    have hb := b.isLt
    show s.seq.sendSteps + chunkSteps + 2 * b.toNat + 2 < s.seq.sendSteps + chunkSteps + 2 ^ 33 + 3
    omega
  | stChk => refine checkStep_endsWithin ?_ ?_ ?_ <;> simp only [SeqRegs.stepsLeft] <;> omega
  | stAck => exact execStAck_endsWithin
  | stDly =>
    refine quantumStep_endsWithin h.2 fun b hb => ?_
    show s.seq.sendSteps + chunkSteps + 2 * b.toNat + 2 < s.seq.sendSteps + chunkSteps + 2 * s.seq.quantaLeft + 1
    omega
  | txFifo => exact execTxFifo_endsWithin h
  | txCnt => exact .need fun size _ => storeStep_endsWithin (Nat.lt_succ_self _)
  | txIen =>
    refine armStep_endsWithin fun b => ?_
    have hb := b.isLt
    show s.seq.sendSteps + 3 * b.toNat + 5 < s.seq.sendSteps + 3 * 2 ^ 32 + 6
    omega
  | txChk => exact execTxChk_endsWithin
  | txNak => exact execTxNak_endsWithin
  | txAck => exact execTxAck_endsWithin hc h
  | txDly =>
    refine quantumStep_endsWithin h.2 fun b hb => ?_
    show s.seq.sendSteps + 3 * b.toNat + 5 < s.seq.sendSteps + 3 * s.seq.quantaLeft + 3
    omega
  | spIen =>
    refine armStep_endsWithin fun b => ?_
    have hb := b.isLt
    show s.seq.probeSteps + 2 * b.toNat + 6 < s.seq.probeSteps + 2 ^ 33 + 7
    omega
  | spChk => refine checkStep_endsWithin ?_ ?_ ?_ <;> simp only [SeqRegs.stepsLeft] <;> omega
  | spDly =>
    refine quantumStep_endsWithin h.2 fun b hb => ?_
    show s.seq.probeSteps + 2 * b.toNat + 6 < s.seq.probeSteps + 2 * s.seq.quantaLeft + 5
    omega
  | ret => exact execRet_endsWithin
  | scNext => exact .need fun a _ => State.endsWithin_goto (Nat.lt_succ_self (s.seq.probeSteps + txnSteps))
  | scDly => exact execScDly_endsWithin h
  | done => exact State.endsWithin_goto Nat.zero_lt_one
end

/-! ## The run -/

/-- From the invariant the machine comes to IDLE: a reset brings it there, and every row takes it nearer. -/
theorem comesToIdle (N : Nat) : ∀ (s : State) (m : MicroState), s.Inv → s.isAt m → s.seq.stepsLeft m < N →
    ∃ k t, core.run k s = .next t ∧ t.isAt .idle := by
  induction N with
  | zero => exact fun s m _ _ h => absurd h (Nat.not_lt_zero _)
  | succ N ih =>
    intro s m hinv hm hlt
    by_cases hi : m = .idle
    · subst hi
      exact ⟨0, s, rfl, hm⟩
    by_cases hr : s.envMove.host = .reset
    · refine ⟨1, s.envTurn, ?_, ?_⟩
      · rw [core_run_succ, step_of_reset s hr]
        rfl
      · rw [envTurn_of_reset s hr]
        rfl
    obtain ⟨hc, hphase⟩ := (inv_iff_phase (s := s.ctlMove s.envMove) hm).1 (hinv.ctlMove s.envMove)
    obtain ⟨u, hu, huinv⟩ := exec_ofMicro_lands hc hi hphase
    obtain ⟨m', hum, hless⟩ := (exec_ofMicro_endsWithin hi hc hphase).of_next hu
    obtain ⟨k, t, ht, hidle⟩ := ih u m' huinv hum (hless.trans_le (Nat.le_of_lt_succ hlt))
    exact ⟨k + 1, t, by rw [core_run_succ, step_at hm hi hr, hu]; exact ht, hidle⟩

/-- Settles O52: the steps left are a bound. -/
theorem everyCommandComesToIdle : Obligations.EveryCommandComesToIdle := by
  unfold Obligations.EveryCommandComesToIdle
  intro s h
  obtain ⟨m, hm⟩ := exists_isAt_of_codeOk h.code
  exact comesToIdle _ s m h hm (Nat.lt_succ_self _)

end Sys2Proof.Machine
end

section
/-! PROOFS. The disable of the controller. -/

namespace Sys2Proof.Machine

/-- Settles O21: the operation is its one micro-operation, a store of 0 to `CON`. -/
theorem disableZeroesConOnly : Obligations.DisableZeroesConOnly := by
  unfold Obligations.DisableZeroesConOnly
  intro s
  have hdis : execDis s = _ := storeStep_eq .con 0#32 .ret s
  exact ⟨hdis, hdis⟩

end Sys2Proof.Machine
end

section
/-! PROOFS. The packer (spec/43_packer.md): the logical stream and its words. -/

namespace Sys2Proof

open Machine

/-- Settles O42: the three windows of the stream are the three parts of the joined list. -/
theorem streamIsAddressPrefixPayload : Obligations.StreamIsAddressPrefixPayload := by
  unfold Obligations.StreamIsAddressPrefixPayload
  intro a r d k
  cases k with
  | zero => rfl
  | succ j =>
    rw [List.getElem?_cons_succ]
    simp only [streamByte, Nat.succ_ne_zero, if_false, Nat.add_sub_cancel]
    by_cases hprefix : j < r.length
    · rw [if_pos (Nat.succ_le_of_lt hprefix), List.getElem?_append_left hprefix]
    · rw [if_neg (by omega), List.getElem?_append_right (by omega)]
      by_cases hpayload : j < r.length + d.length
      · rw [if_pos (by omega)]
      · rw [if_neg (by omega), List.getElem?_eq_none (by omega)]

/-- Lane `j` of `Word(i)` is the byte at chunk position `4 * i + j` (spec/43_packer.md R145). -/
theorem laneByte_of_fifoWord {stream : Nat → Option Byte} {off chunk i j : Nat} {w : Word}
    (h : fifoWord stream off chunk i = some w) (hj : j < 4) :
    laneByte stream off chunk (4 * i + j) = some (w.extractLsb' (8 * j) 8) := by
  unfold fifoWord at h
  split at h
  next b0 b1 b2 b3 h0 h1 h2 h3 =>
    cases h
    have hlanes := bytesOfWord_wordOfBytes b0 b1 b2 b3
    simp only [bytesOfWord, List.cons.injEq, and_true] at hlanes
    obtain ⟨l0, l1, l2, l3⟩ := hlanes
    match j, hj with
    | 0, _ => rw [l0]; exact h0
    | 1, _ => rw [l1]; exact h1
    | 2, _ => rw [l2]; exact h2
    | 3, _ => rw [l3]; exact h3
  next => cases h

/-- A chunk inside the stream of a request has all its words. -/
theorem exists_fifoWord_of_request (a : BitVec 7) {r d : List Byte} {off chunk : Nat}
    (h : off + chunk ≤ 1 + r.length + d.length) (i : Nat) :
    ∃ w, fifoWord (streamByte a r.length d.length r d) off chunk i = some w :=
  exists_fifoWord (fun _ hk => streamByte_isSome a (hk.trans_le h)) i

/-- Settles O43: the word's lanes are the chunk's bytes. -/
theorem wordLanesAreStreamBytes : Obligations.WordLanesAreStreamBytes := by
  unfold Obligations.WordLanesAreStreamBytes
  intro a r d off chunk i h
  obtain ⟨w, hw⟩ := exists_fifoWord_of_request a h i
  exact ⟨w, hw, fun j hj => (laneByte_of_fifoWord hw hj).symm⟩

/-- Settles O45, by computing the sizes and the one word. -/
theorem probeIsOneChunkOfTwoBytes : Obligations.ProbeIsOneChunkOfTwoBytes := by
  unfold Obligations.ProbeIsOneChunkOfTwoBytes
  intro a x depth hdepth
  have hsize : (chunkSizeOf depth 2#32).toNat = 2 :=
    (toNat_chunkSizeOf depth 2#32).trans (min_eq_left ((by decide : 2 ≤ 4).trans hdepth))
  exact ⟨rfl, BitVec.eq_of_toNat_eq hsize, rfl, rfl⟩

/-- The address byte is twice the address, and so even (spec/30_encoding.md R85). -/
theorem toNat_addressByte (a : BitVec 7) : (addressByte a).toNat = 2 * a.toNat := by
  rw [addressByte, toNat_append_eq_add, Nat.mul_comm]
  rfl

end Sys2Proof
end

section
/-! PROOFS. The FIFO load (spec/43_packer.md R147) and the trigger of a chunk. -/

namespace Sys2Proof.Machine

/-! ## TX_FIFO -/

/-- While sending there are bytes left. -/
theorem State.Sending.bytesRem_pos {s : State} {rem : Word} (h : s.Sending) (hrem : s.seq.bytesRem = some rem) :
    0 < rem.toNat := by
  obtain ⟨-, hne, -⟩ := h
  rw [hrem, Option.getD_some] at hne
  bv_omega

/-- `word i` is `Word(i)` of the current chunk: what the packer builds from the request latch, `STREAM_OFF` and
`CHUNK_SIZE` (spec/43_packer.md R149). -/
def State.Packs (s : State) (word : Nat → Option Word) : Prop :=
  ∀ (i : Word) (k : Option Word → Answer), chunkWord s i k = k (word i.toNat)

/-- The packer's registers determine its words. -/
theorem State.packs_of_registers {s : State} {a : BitVec 7} {p l off size : Word} {r d : List Byte}
    (ha : s.seq.devaddr = some a) (hp : s.seq.p = some p) (hl : s.seq.l = some l) (hr : s.seq.r = some r)
    (hd : s.seq.d = some d) (hoff : s.seq.streamOff = some off) (hsize : s.seq.chunkSize = some size) :
    s.Packs (fifoWord (streamByte a p.toNat l.toNat r d) off.toNat size.toNat) := by
  intro i k
  simp only [chunkWord, ha, hp, hl, hr, hd, hoff, hsize, need_some]

/-- The state after TX_FIFO has loaded `w` as word `i` of `cnt`. -/
def State.loadWord (s : State) (i cnt w : Word) : State :=
  let t := s.regWrite (.txdata i.toNat) w
  ({ t with seq := { t.seq with wordIdx := some (i + 1#32) } } : State).goto
    (if i + 1#32 = cnt then .txCon else .txFifo)

/-- TX_FIFO gives a next state exactly if the register and the word exist, and then it has loaded that word. -/
theorem execTxFifo_eq_next {s t : State} {i cnt : Word} {word : Nat → Option Word} (hi : s.seq.wordIdx = some i)
    (hcnt : s.seq.wordCnt = some cnt) (hpack : s.Packs word) :
    execTxFifo s = .next t ↔ i.toNat < s.cfg.fifoWords ∧ ∃ w, word i.toNat = some w ∧ s.loadWord i cnt w = t := by
  simp only [execTxFifo, hi, hcnt, need_some, hpack i, txdataWrite]
  split
  next hlt => cases word i.toNat <;> simp [hlt, State.loadWord]
  next hlt => simp [hlt]

/-- Settles O28: the word exists, and so does its register. -/
theorem fifoLoadStoresOneWord : Obligations.FifoLoadStoresOneWord := by
  unfold Obligations.FifoLoadStoresOneWord
  intro s i cnt p l off size w a r d hi hcnt ha hp hl hr hd hoff hsize hlt hw
  refine (execTxFifo_eq_next hi hcnt (State.packs_of_registers ha hp hl hr hd hoff hsize)).2 ⟨hlt, w, hw, ?_⟩
  rw [State.loadWord, State.goto, apply_ite MicroState.code]
  rfl

/-- Settles O44: lane 0 of word 0 of the first chunk is byte 0 of the stream. -/
theorem firstByteIsTheAddress : Obligations.FirstByteIsTheAddress := by
  unfold Obligations.FirstByteIsTheAddress
  intro s t a hinv hat hi hoff ha hexec
  obtain ⟨⟨hwf, hlength⟩, hsend, -⟩ := (inv_iff_phase hat).1 hinv
  obtain ⟨a', r, d, ha', hp, hl, hr, hd, -⟩ := hsend.1.1.1.exists
  obtain rfl : a = a' := Option.some.inj (ha.symm.trans ha')
  obtain ⟨rem, off, hrem, hoff', -, hsize, hcnt, -⟩ := hsend.exists
  obtain rfl : 0#32 = off := Option.some.inj (hoff.symm.trans hoff')
  obtain ⟨hlt, w, hw, rfl⟩ :=
    (execTxFifo_eq_next hi hcnt (State.packs_of_registers ha hp hl hr hd hoff hsize)).1 hexec
  have hpos : 0 < (chunkSizeOf s.cfg.fifoDepthBytes rem).toNat := by
    rw [toNat_chunkSizeOf]
    exact lt_min (hsend.bytesRem_pos hrem) (depth_of_wf hwf).1
  have hbyte : w.extractLsb' 0 8 = addressByte a := by
    have hlane := laneByte_of_fifoWord hw (j := 0) (by decide)
    exact (Option.some.inj ((if_pos hpos).symm.trans hlane)).symm
  refine ⟨w, List.getElem?_set_self (hlength ▸ hlt), hbyte ▸ toNat_addressByte a, ?_⟩
  have hbit : (w.extractLsb' 0 8).getLsbD 0 = false := by
    rw [hbyte, addressByte, BitVec.getLsbD_append]
    rfl
  simpa using hbit

/-! ## The FIFO load and the trigger -/

/-- From `s` to `t` the words `i` to `j - 1` have been loaded, and nothing else has changed but `upc`, the flags and other
bits of `IPD`, further events, and the record of turns. -/
structure Loads (word : Nat → Option Word) (i j : Nat) (s t : State) : Prop where
  bank : ∃ txdata ipd other, t.bank = { s.bank with txdata := txdata, ipd := ipd, ipdOther := other }
  loaded : ∀ k, i ≤ k → k < j → t.bank.txdata[k]? = word k
  kept : ∀ k, (k < i ∨ j ≤ k) → t.bank.txdata[k]? = s.bank.txdata[k]?
  seq : ∃ idx, idx.toNat = j ∧ t.seq = { s.seq with wordIdx := some idx }
  cfg : t.cfg = s.cfg
  port : t.port = s.port
  trace : s.trace <+: t.trace

namespace Loads

variable {word : Nat → Option Word} {i j k : Nat} {s t u : State}

theorem trans (h : Loads word i j s t) (h' : Loads word j k t u) (hij : i ≤ j) (hjk : j ≤ k) : Loads word i k s u where
  bank := by
    obtain ⟨_, _, _, hb⟩ := h.bank
    obtain ⟨_, _, _, hb'⟩ := h'.bank
    rw [hb] at hb'
    exact ⟨_, _, _, hb'⟩
  loaded n hin hnk := by
    by_cases hnj : n < j
    · exact (h'.kept n (.inl hnj)).trans (h.loaded n hin hnj)
    · exact h'.loaded n (Nat.le_of_not_lt hnj) hnk
  kept n hn := (h'.kept n (by omega)).trans (h.kept n (by omega))
  seq := by
    obtain ⟨_, -, hq⟩ := h.seq
    obtain ⟨idx, hidx, hq'⟩ := h'.seq
    rw [hq] at hq'
    exact ⟨idx, hidx, hq'⟩
  cfg := h'.cfg.trans h.cfg
  port := h'.port.trans h.port
  trace := h.trace.trans h'.trace

/-- A turn of `Ctl` loads nothing. -/
theorem ctlMove (h : Loads word i j s t) (m : EnvMove) : Loads word i j s (t.ctlMove m) where
  bank := by
    obtain ⟨_, _, _, hb⟩ := h.bank
    exact ⟨_, _, _, by rw [ctlMove_bank, hb]⟩
  loaded := h.loaded
  kept := h.kept
  seq := h.seq
  cfg := h.cfg
  port := h.port
  trace := h.trace

/-- TX_FIFO loads one word. -/
theorem loadWord {i w : Word} (cnt : Word) (hw : word i.toNat = some w) (hlt : i.toNat < s.bank.txdata.length)
    (hi : i.toNat + 1 < 2 ^ 32) : Loads word i.toNat (i.toNat + 1) s (s.loadWord i cnt w) where
  bank := ⟨_, _, _, rfl⟩
  loaded n hin hni := by
    obtain rfl : n = i.toNat := by omega
    exact (List.getElem?_set_self hlt).trans hw.symm
  kept n hn := List.getElem?_set_ne (by omega)
  seq := ⟨_, by bv_omega, rfl⟩
  cfg := rfl
  port := rfl
  trace := List.prefix_append _ _

end Loads

/-- `s` is about to load word `i` of `cnt`: the words exist, and so do their registers. -/
structure State.LoadReady (s : State) (word : Nat → Option Word) (i cnt : Word) : Prop where
  wordIdx : s.seq.wordIdx = some i
  wordCnt : s.seq.wordCnt = some cnt
  packs : s.Packs word
  words : ∀ k < cnt.toNat, ∃ w, word k = some w
  fits : cnt.toNat ≤ s.cfg.fifoWords
  txdata : s.bank.txdata.length = s.cfg.fifoWords

namespace State.LoadReady

variable {word : Nat → Option Word} {i cnt : Word} {s : State}

theorem execTxFifo_loads (h : s.LoadReady word i cnt) (hlt : i.toNat < cnt.toNat) :
    ∃ w, execTxFifo s = .next (s.loadWord i cnt w) ∧ Loads word i.toNat (i.toNat + 1) s (s.loadWord i cnt w) := by
  obtain ⟨w, hw⟩ := h.words i.toNat hlt
  have hreg : i.toNat < s.cfg.fifoWords := hlt.trans_le h.fits
  exact ⟨w, (execTxFifo_eq_next h.wordIdx h.wordCnt h.packs).2 ⟨hreg, w, hw, rfl⟩,
    Loads.loadWord cnt hw (h.txdata ▸ hreg) (by omega)⟩

/-- After a word and a turn of `Ctl` the next word is to load. -/
theorem next (h : s.LoadReady word i cnt) (w : Word) (m : EnvMove) :
    ((s.loadWord i cnt w).ctlMove m).LoadReady word (i + 1#32) cnt where
  wordIdx := rfl
  wordCnt := h.wordCnt
  packs := h.packs
  words := h.words
  fits := h.fits
  txdata := List.length_set.trans h.txdata

end State.LoadReady

/-- The FIFO load with `n` further words loads the words from `WORD_IDX` to the last one and comes to TX_CON. -/
theorem fifoLoad_loads {word : Nat → Option Word} {cnt : Word} {m : Nat} : ∀ (n : Nat) (s : State) (i : Word),
    s.LoadReady word i cnt → cnt.toNat = i.toNat + n + 1 → NoResetWithin (n + m) s →
    ∃ t, fifoLoad n s = .next t ∧ t.isAt .txCon ∧ Loads word i.toNat cnt.toNat s t ∧ NoResetWithin m t := by
  intro n
  induction n with
  | zero =>
    intro s i h hn hr
    obtain ⟨w, hexec, hone⟩ := h.execTxFifo_loads (by omega)
    have hlast : i + 1#32 = cnt := by bv_omega
    exact ⟨s.loadWord i cnt w, hexec, goto_isAt.2 (if_pos hlast), hn ▸ hone, hr.mono (Nat.le_add_left m 0)⟩
  | succ n ih =>
    intro s i h hn hr
    obtain ⟨w, hexec, hone⟩ := h.execTxFifo_loads (by omega)
    let u := s.loadWord i cnt w
    have hat : u.isAt .txFifo := goto_isAt.2 (if_neg (by bv_omega))
    have hur : NoResetWithin (n + m + 1) u := hr.mono (by omega)
    have hidx : (i + 1#32).toNat = i.toNat + 1 := by bv_omega
    obtain ⟨t, ht, htat, hrest, htr⟩ := ih _ _ (h.next w u.envMove) (by omega) (hur.ctlMove _)
    rw [hidx] at hrest
    refine ⟨t, ?_, htat, (hone.ctlMove _).trans hrest (by omega) (by omega), htr⟩
    rw [fifoLoad, hexec, thenAt_busy _ (by decide) hat hur]
    exact ht

/-- The trigger's three stores, and the turns before them (spec/44_transaction.md R166). -/
theorem thenAt_trigger {t : State} {size : Word} (hat : t.isAt .txCon) (hsize : t.seq.chunkSize = some size)
    (hr : NoResetWithin 3 t) :
    ∃ u, thenAt (thenAt (thenAt (.next t) .txCon execTxCon) .txCnt execTxCnt) .txIen execTxIen = .next u ∧
      u.isAt .txChk ∧
      (∃ ipd other, u.bank = { t.bank with con := t.cfg.layout.conTxValue, ien := t.cfg.layout.ienTxValue,
                                           mtxcnt := size, ipd := ipd, ipdOther := other }) ∧
      u.seq = { t.seq with countdown := some t.cfg.timeoutBudget } ∧ u.cfg = t.cfg ∧ u.port = t.port ∧
      t.trace <+: u.trace := by
  let t1 := t.ctlMove t.envMove
  let s2 := (t1.regWrite .con t.cfg.layout.conTxValue).goto .txCnt
  let t2 := s2.ctlMove s2.envMove
  let s3 := (t2.regWrite .mtxcnt size).goto .txIen
  let t3 := s3.ctlMove s3.envMove
  have h2 : NoResetWithin 2 s2 := hr.ctlMove t.envMove
  have h3 : NoResetWithin 1 s3 := h2.ctlMove s2.envMove
  have hcon : execTxCon t1 = .next s2 := rfl
  have hcnt : execTxCnt t2 = .next s3 := need_of_eq _ hsize
  refine ⟨((t3.regWrite .ien t.cfg.layout.ienTxValue).setCountdown t.cfg.timeoutBudget).goto .txChk, ?_, rfl,
    ⟨_, _, rfl⟩, rfl, rfl, rfl, ?_⟩
  · rw [thenAt_busy _ (by decide) hat hr, hcon, thenAt_busy _ (by decide) (t := s2) rfl h2, hcnt,
      thenAt_busy _ (by decide) (t := s3) rfl h3]
    rfl
  · simp [t3, s3, t2, s2, t1]

/-- Settles O39: the FIFO load, then the trigger. -/
theorem txChunkLoadsEveryWordAndTriggers : Obligations.TxChunkLoadsEveryWordAndTriggers := by
  unfold Obligations.TxChunkLoadsEveryWordAndTriggers
  intro s i cnt p l off size a r d hi hcnt ha hp hl hr hd hoff hsize hrlen hdlen hin hlt hle hlength hreset
  rw [BitVec.lt_def] at hlt
  have hn : (cnt - i - 1#32).toNat = cnt.toNat - i.toNat - 1 := by bv_omega
  have hpack := State.packs_of_registers ha hp hl hr hd hoff hsize
  rw [← hrlen, ← hdlen] at hin hpack ⊢
  obtain ⟨t, ht, hat, hloads, htr⟩ := fifoLoad_loads (m := 3) (cnt.toNat - i.toNat - 1) s i
    ⟨hi, hcnt, hpack, fun k _ => exists_fifoWord_of_request a hin k, hle, hlength⟩ (by omega) (hreset.mono (by omega))
  obtain ⟨txdata, ipd, other, hbank⟩ := hloads.bank
  obtain ⟨idx, hidx, hseq⟩ := hloads.seq
  obtain rfl : idx = cnt := BitVec.eq_of_toNat_eq hidx
  obtain ⟨u, hu, huat, ⟨ipd', other', hubank⟩, huseq, hucfg, huport, hutrace⟩ :=
    thenAt_trigger hat (by rw [hseq, hsize]) htr
  have hutxdata : u.bank.txdata = t.bank.txdata := by rw [hubank]
  refine ⟨u, ?_, huat, ?_, ?_, ?_, ?_, hucfg.trans hloads.cfg, huport.trans hloads.port, hloads.trace.trans hutrace⟩
  · have hexec : execTxChunk s = _ := (need_of_eq _ hi).trans (need_of_eq _ hcnt)
    rw [hn, ht] at hexec
    exact hexec.trans hu
  · rw [hubank, hbank, hloads.cfg]
  · rw [hutxdata]
    exact hloads.loaded
  · rw [hutxdata]
    exact hloads.kept
  · rw [huseq, hseq, hloads.cfg]

end Sys2Proof.Machine
end

section
/-! PROOFS. The start of a transaction, and the number of its chunks (spec/43_packer.md R152). -/

namespace Sys2Proof

/-- The chunk at `off` is the last one by the ceiling exactly if the rest fits it (spec/43_packer.md R152). -/
theorem succ_div_eq_ceilDiv_iff {off rem depth : Nat} (hdepth : 0 < depth) (hmod : off % depth = 0) (hrem : 0 < rem) :
    off / depth + 1 = ceilDiv (off + rem) depth ↔ rem ≤ depth := by
  obtain ⟨c, rfl⟩ := Nat.dvd_of_mod_eq_zero hmod
  rw [Nat.mul_div_cancel_left c hdepth]
  have hlast := ceilDiv_le_iff (a := depth * c + rem) (t := c + 1) hdepth
  have hmore := ceilDiv_le_iff (a := depth * c + rem) (t := c) hdepth
  rw [Nat.mul_succ] at hlast
  omega

end Sys2Proof

namespace Sys2Proof.Machine

/-- Settles O16: on 32 bits `TOTAL` does not wrap. -/
theorem txnInitStartsTheTransaction : Obligations.TxnInitStartsTheTransaction := by
  unfold Obligations.TxnInitStartsTheTransaction
  intro s p l hp hl hlt
  rw [← toNat_totalBytes hlt, BitVec.ofNat_toNat, BitVec.setWidth_eq]
  exact (need_of_eq _ hp).trans (need_of_eq _ hl)

/-! ## The advance (spec/44_transaction.md R169) -/

/-- The advance leaves Sending if no byte is left. -/
theorem advance_isAt (s : State) (rem off : Word) :
    (s.advance rem off).isAt (if rem = 0#32 then .spClr else .txFifo) := by
  unfold State.advance
  split <;> rfl

theorem advance_streamOff (s : State) (rem off : Word) : (s.advance rem off).seq.streamOff = some off := by
  unfold State.advance
  dsimp only
  split <;> rfl

/-- Settles O46: the chunk at a multiple of the depth is the last one exactly if the bytes left fit it. -/
theorem chunkCountIsTheCeiling : Obligations.ChunkCountIsTheCeiling := by
  unfold Obligations.ChunkCountIsTheCeiling
  intro s t off size hinv hat hreset herr hoff hsize hstep
  obtain ⟨⟨hwf, -⟩, ⟨⟨⟨hsend, -⟩, -⟩, -⟩⟩ := (inv_iff_phase hat).1 hinv
  obtain ⟨rem, off', hrem, hoff', hsum, hsize', -, hmod⟩ := State.Sending.exists hsend
  obtain rfl : off = off' := Option.some.inj (hoff.symm.trans hoff')
  obtain ⟨_, _, _, -, -, -, -, -, htotal, hlt⟩ := hsend.1.1.1.exists
  obtain ⟨hdepth, -⟩ := depth_of_wf hwf
  have hmin : size.toNat = min rem.toNat s.cfg.fifoDepthBytes := by
    rw [Option.some.inj (hsize.symm.trans hsize'), toNat_chunkSizeOf]
  have hlast := succ_div_eq_ceilDiv_iff hdepth hmod (State.Sending.bytesRem_pos hsend hrem)
  have hdone : rem - size = 0#32 ↔ rem.toNat ≤ s.cfg.fifoDepthBytes := by bv_omega
  rw [step_at hat (by decide) hreset] at hstep
  obtain rfl := Host.Outcome.next.inj
    ((execTxAck_of_noError (s := s.ctlMove s.envMove) herr hrem hoff hsize).symm.trans hstep)
  have hto := advance_isAt ((s.ctlMove s.envMove).regWrite .ipd (s.cfg.layout.mask .mbtf)) (rem - size) (off + size)
  rw [← hsum, hmin]
  refine ⟨by omega, ?_⟩
  split
  next hceil =>
    have hfits := hlast.1 hceil
    rw [if_pos (hdone.2 hfits)] at hto
    exact ⟨hto, by omega⟩
  next hceil =>
    have hmore := mt hlast.2 hceil
    rw [if_neg (mt hdone.1 hmore)] at hto
    refine ⟨hto, ?_⟩
    have hnext : (off + size).toNat = off.toNat + s.cfg.fifoDepthBytes := by
      rw [BitVec.toNat_add]
      omega
    rw [advance_streamOff, Option.getD_some, hnext, Nat.add_div_right _ hdepth]

end Sys2Proof.Machine
end

section
/-! PROOFS. The successors of every row of the transition table (spec/44_transaction.md R175). -/

namespace Sys2Proof.Machine

/-! ## What a row leads to -/

section
variable {s : State} {ms : List MicroState}

theorem within_goto {m : MicroState} (h : m ∈ ms) : (s.goto m).within ms := (within_iff_mem rfl ms).2 h

theorem storeStep_within {reg : Reg} {v : Word} {m : MicroState} (h : m ∈ ms) :
    Answers (State.within · ms) (storeStep reg v m s) := within_goto (s := s.regWrite reg v) h

theorem armStep_within {v : Word} {m : MicroState} (h : m ∈ ms) : Answers (State.within · ms) (armStep v m s) :=
  within_goto (s := (s.regWrite .ien v).setCountdown s.cfg.timeoutBudget) h

theorem quantumStep_within {m : MicroState} (h : m ∈ ms) : Answers (State.within · ms) (quantumStep m s) :=
  .need fun _ _ => within_goto h

theorem orTimeout_within {timedOut again : MicroState} (hto : timedOut ∈ ms) (hagain : again ∈ ms) :
    Answers (State.within · ms) (s.orTimeout timedOut again) := by
  refine .need fun n _ => ?_
  split
  · exact .need fun x _ => within_goto hto
  · exact within_goto hagain

theorem checkStep_within {f : Flag} {found timedOut again : MicroState} (hfound : found ∈ ms) (hto : timedOut ∈ ms)
    (hagain : again ∈ ms) : Answers (State.within · ms) (checkStep f found timedOut again s) :=
  .ifSeen (within_goto hfound) (orTimeout_within hto hagain)

end

/-! ## The rows -/

section
variable (s : State)

theorem execTxFifo_within : Answers (State.within · (successors .txFifo)) (execTxFifo s) := by
  refine .need fun i _ => .need fun cnt _ => .need fun _ _ => .need fun _ _ => .need fun _ _ => .need fun _ _ =>
    .need fun _ _ => .need fun _ _ => .need fun _ _ => .txdataWrite fun w => within_goto ?_
  split <;> decide

theorem execTxChk_within : Answers (State.within · (successors .txChk)) (execTxChk s) :=
  .ifSeen (within_goto (by decide)) (.ifSeen (within_goto (by decide)) (orTimeout_within (by decide) (by decide)))

theorem execTxNak_within : Answers (State.within · (successors .txNak)) (execTxNak s) := by
  refine .need fun v _ => .need fun x _ => ?_
  dsimp only
  split
  · exact within_goto (by decide)
  · refine .need fun n _ => within_goto ?_
    split <;> decide

theorem execTxAck_within : Answers (State.within · (successors .txAck)) (execTxAck s) := by
  refine .need fun x _ => ?_
  cases x with
  | error e => exact storeStep_within (by decide)
  | noError =>
    refine .need fun rem _ => .need fun off _ => .need fun size _ => (within_iff_mem (advance_isAt _ _ _) _).2 ?_
    split <;> decide

theorem execRet_within : Answers (State.within · (successors .ret)) (execRet s) := by
  refine .need fun c _ => ?_
  cases c with
  | cfgclk => trivial
  | wrtxn => exact .need fun x _ => within_goto (by decide)
  | scan => exact .need fun x _ => .need fun a _ => within_goto (by decide)

theorem execScDly_within : Answers (State.within · (successors .scDly)) (execScDly s) := by
  refine .need fun a _ => ?_
  dsimp only
  refine within_goto ?_
  split <;> decide

/-- Every row of the table but IDLE's leads to a successor of its own. -/
theorem exec_ofMicro_within {m : MicroState} (hm : m ≠ .idle) :
    Answers (State.within · (successors m)) (exec (Instr.ofMicro m) s) := by
  cases m with
  | idle => exact absurd rfl hm
  | ckSel => exact .need fun hz _ => within_goto (by decide)
  | ckDiv => exact .need fun hz _ => storeStep_within (by decide)
  | txnInit => exact .need fun p _ => .need fun l _ => within_goto (by decide)
  | stClr | stCon | txCon | spClr | spCon | spAck | dis => exact storeStep_within (by decide)
  | stIen | txIen | spIen => exact armStep_within (by decide)
  | stChk | spChk => exact checkStep_within (by decide) (by decide) (by decide)
  | stDly | txDly | spDly => exact quantumStep_within (by decide)
  | stAck => exact .need fun rem _ => within_goto (by decide)
  | txFifo => exact execTxFifo_within s
  | txCnt => exact .need fun size _ => storeStep_within (by decide)
  | txChk => exact execTxChk_within s
  | txNak => exact execTxNak_within s
  | txAck => exact execTxAck_within s
  | ret => exact execRet_within s
  | scNext => exact .need fun a _ => within_goto (by decide)
  | scDly => exact execScDly_within s
  | done => exact within_goto (s := s.dropValues) (by decide)

end

/-- An accepted command is at the first micro-state of its kind. -/
theorem accept_within {s t : State} {c : Command} (h : accept c s = .next t) : t.within (successors .idle) := by
  cases c with
  | cfgclk hz =>
    simp only [accept, acceptCfgclk] at h
    split at h <;> cases h
    exact (within_iff_mem (m := .ckSel) rfl _).2 (by decide)
  | wrtxn a r d =>
    simp only [accept, acceptWrtxn] at h
    split at h <;> cases h
    exact (within_iff_mem (m := .txnInit) rfl _).2 (by decide)
  | scan =>
    cases h
    exact (within_iff_mem (m := .scNext) rfl _).2 (by decide)
  | reservedOp3 rest => cases h

theorem execIdle_within {s t : State} (h : execIdle s = .next t) : t.within (successors .idle) := by
  unfold execIdle at h
  split at h
  · cases h
    exact within_goto (by decide)
  split at h
  next => exact accept_within h
  next => cases h

/-! ## The step -/

/-- Without a reset the environment's turn leaves `upc`. -/
theorem envTurn_upc {s : State} (hr : NoReset s) : s.envTurn.upc = s.upc := by
  obtain ⟨p, b, henv⟩ := hostMove_of_noReset (s.ctlMove s.envMove) hr
  rw [State.envTurn, henv, ctlMove_upc]

/-- Settles O53, row by row of the transition table. -/
theorem successorsAreTheTables : Obligations.SuccessorsAreTheTables := by
  unfold Obligations.SuccessorsAreTheTables
  intro m s t hat hr h
  have hat' : s.envTurn.isAt m := (envTurn_upc hr).trans hat
  rw [step_of_noReset s hr, runFetched_row hat'] at h
  by_cases hm : m = .idle
  · subst hm
    exact execIdle_within h
  · exact (exec_ofMicro_within _ hm).of_next h

end Sys2Proof.Machine
end

section
/-! PROOFS. DONE, and the completion of a chunk. -/

namespace Sys2Proof.Machine

/-! ## DONE (spec/44_transaction.md R173) -/

/-- Settles O18: DONE drops the values and goes to IDLE. -/
theorem doneDropsEverySequencerValue : Obligations.DoneDropsEverySequencerValue := by
  unfold Obligations.DoneDropsEverySequencerValue
  exact fun _ => rfl

/-! ## TX_ACK (spec/44_transaction.md R168, R169) -/

theorem clearBy_mask_mbtf {y : Layout} (hwf : y.wf = true) (x : Flags) :
    x.clearBy y (y.mask .mbtf) = { x with mbtf := false } := by
  simp [Flags.clearBy_mask hwf]

/-- In an allowed layout TX_ACK's store clears the completion flag alone. -/
theorem regWrite_ipd_mask_mbtf {s : State} (hwf : s.cfg.layout.wf = true) :
    s.regWrite .ipd (s.cfg.layout.mask .mbtf) = { s with
      bank := { s.bank with ipd := { s.bank.ipd with mbtf := false } },
      trace := s.trace ++ [.w .ipd (bit s.cfg.layout.mbtf)] } := by
  rw [← clearBy_mask_mbtf hwf]
  rfl

/-- Settles O32: the clear, and the advance on 32 bits where nothing wraps. -/
theorem completionAdvancesOrUnwinds : Obligations.CompletionAdvancesOrUnwinds := by
  unfold Obligations.CompletionAdvancesOrUnwinds
  refine fun s hwf => ⟨fun e herr => ?_, fun rem off size herr hrem hoff hsize hle hlt => ?_⟩
  · refine (execTxAck_of_error herr).trans ?_
    rw [regWrite_ipd_mask_mbtf hwf]
    rfl
  · refine (execTxAck_of_noError herr hrem hoff hsize).trans ?_
    have hleft : (rem - size).toNat = rem.toNat - size.toNat := BitVec.toNat_sub_of_le hle
    have hnext : (off + size).toNat = off.toNat + size.toNat := BitVec.toNat_add_of_lt hlt
    have hdone : rem - size = 0#32 ↔ size = rem := by bv_omega
    rw [regWrite_ipd_mask_mbtf hwf, ← hleft, ← hnext, ← wordCountOf_chunkSizeOf, BitVec.ofNat_toNat,
      BitVec.ofNat_toNat, BitVec.setWidth_eq, BitVec.setWidth_eq]
    by_cases hlast : size = rem
    · rw [State.advance, if_pos (hdone.2 hlast), if_pos hlast, if_pos hlast, hdone.2 hlast]
      rfl
    · rw [State.advance, if_neg (mt hdone.1 hlast), if_neg hlast, if_neg hlast]
      rfl

end Sys2Proof.Machine
end

section
/-! PROOFS. The scan's two micro-operations (spec/45_scan.md). -/

namespace Sys2Proof.Machine

theorem execScNext_of_scanAddr {s : State} {a : BitVec 8} (h : s.seq.scanAddr = some a) :
    execScNext s = .next ((s.latch (a.setWidth 7) [scanPrefixByte] []).goto .txnInit) :=
  need_of_eq _ h

theorem execScDly_of_scanAddr {s : State} {a : BitVec 8} (h : s.seq.scanAddr = some a) :
    execScDly s = .next { s with
      upc := (if scanLast < a + 1#8 then MicroState.done else .scNext).code,
      seq := { s.seq with scanAddr := some (a + 1#8) },
      trace := s.trace ++ [.dly scanDelayUs] } :=
  need_of_eq _ h

/-- Within the scan's range the address counted up leaves the range exactly after its last address: 8 bits do not wrap
at 0x77. -/
theorem scanLast_lt_succ_iff {a : BitVec 8} (hle : a ≤ scanLast) : scanLast < a + 1#8 ↔ a = scanLast := by
  simp only [scanLast] at hle ⊢
  bv_omega

/-- Settles O33: the probe is latched; the scan ends where the address counted up passes the last one. -/
theorem scanProbesAndAdvances : Obligations.ScanProbesAndAdvances := by
  unfold Obligations.ScanProbesAndAdvances
  refine fun s a ha => ⟨execScNext_of_scanAddr ha, fun hle => (execScDly_of_scanAddr ha).trans ?_⟩
  have hnext : BitVec.ofNat 8 (a.toNat + 1) = a + 1#8 := by rw [BitVec.ofNat_add, BitVec.ofNat_toNat, BitVec.setWidth_eq]
  rw [hnext, apply_ite MicroState.code]
  simp only [scanLast_lt_succ_iff hle]
  rfl

end Sys2Proof.Machine
end

section
/-! PROOFS. `record(e)` over the state (spec/60_exceptions.md R201). -/

namespace Sys2Proof.Machine

/-- Where an error stands in the latch, `record(e)` stores the same error again: nothing changes. -/
theorem State.record_of_error {s : State} {e' : ErrKind} (herr : s.seq.err = some (.error e')) (e : ErrKind) :
    s.record (.error e') e = s := by
  have hkept : (ErrLatch.error e').record e = .error e' := rfl
  rw [State.record, hkept, ← herr]

/-- Settles O47: the latch is written where it holds no error; where it holds one, that one stays. -/
theorem recordKeepsTheFirstError : Obligations.RecordKeepsTheFirstError := by
  unfold Obligations.RecordKeepsTheFirstError
  intro s x e herr
  cases x with
  | noError =>
    rw [if_pos rfl]
    rfl
  | error e' =>
    rw [if_neg ErrLatch.noConfusion]
    exact State.record_of_error herr e

end Sys2Proof.Machine
end

section
/-! PROOFS. The reset input (spec/70_reset_and_hazards.md R230). -/

namespace Sys2Proof.Machine

/-- A step with reset asserted runs no row: it is `Ctl`'s half of the turn, then the reset. -/
theorem step_eq_assertReset {s : State} (hr : s.envMove.host = .reset) :
    step s = .next (s.ctlMove s.envMove).assertReset := by
  rw [step_of_reset s hr, envTurn_of_reset s hr]

/-- Settles O8: the reset leaves the bank as `Ctl`'s half of the turn left it, and that half only sets flags. -/
theorem resetInputEmptiesTheSequencerOnly : Obligations.ResetInputEmptiesTheSequencerOnly := by
  unfold Obligations.ResetInputEmptiesTheSequencerOnly
  intro s hr
  have hsets : ∀ f : Flag, (s.ctlMove s.envMove).assertReset.bank.ipd.get f =
      (s.bank.ipd.get f || s.envMove.set.get f) := get_ctlMove_eq s s.envMove
  exact ⟨_, step_eq_assertReset hr, assertReset_upc _, assertReset_seq _, assertReset_trace _,
    rfl, rfl, rfl, rfl, rfl, hsets⟩

end Sys2Proof.Machine
end
